-- ==== Sys2Proof/Word.lean ====
section
/-! DEFINITION. The word types of the machine (spec 00_scope.md R5, R6): bytes and 16-bit words, and a word made of
two bytes, high byte first. -/

namespace Sys2Proof

/-- An 8-bit value: an accumulator, a memory byte, an operand byte (R5). -/
abbrev Byte := BitVec 8

/-- A 16-bit value: X, Y, SP, pc, an address, a pointer, a vector (R5). -/
abbrev Word := BitVec 16

/-- `a : b` of R6: `hi` is the high part. -/
abbrev Word.ofBytes (hi lo : Byte) : Word := hi ++ lo

/-- `v[15:8]` of R6. -/
abbrev Word.hi (v : Word) : Byte := v.extractLsb' 8 8

/-- `v[7:0]` of R6. -/
abbrev Word.lo (v : Word) : Byte := v.extractLsb' 0 8

end Sys2Proof
end

