-- ==== Sys2Proof/Syntax.lean ====
section
/-! DEFINITION. The instructions (spec 30_encoding.md R51, R55, R73): one constructor of `Instr` per row of
opcode_table.json, and `Form`, the same sixty rows seen as operation and operand form; and the sub-modes of the postbyte. -/

namespace Sys2Proof

/-- The base registers `xysp` of the indexed forms (R55, R66). -/
inductive Base where
  | x
  | y
  | sp
  | pc
  deriving DecidableEq, Repr

/-- The base registers of the auto increment/decrement sub-mode: never PC (R60). -/
inductive IndexReg where
  | x
  | y
  | sp
  deriving DecidableEq, Repr

/-- The accumulators that serve as an offset (R61). -/
inductive Acc where
  | a
  | b
  | d
  deriving DecidableEq, Repr

/-- The operand forms that name a byte of memory (R57 to R65). Offsets and steps are integers, as the assembler
notation of R70 writes them; which values an encoding can hold is `MemOperand.wf` of WellFormed.lean. -/
inductive MemOperand where
  /-- DIR (R57) -/
  | dir (dd : Byte)
  /-- EXT (R58) -/
  | ext (hhll : Word)
  /-- IDX, 5-bit constant offset (R59) -/
  | const5 (base : Base) (off : Int)
  /-- IDX, auto pre/post increment/decrement (R60): `pre` before the access, `delta` the signed step -/
  | auto (reg : IndexReg) (pre : Bool) (delta : Int)
  /-- IDX, accumulator offset (R61) -/
  | accOff (base : Base) (acc : Acc)
  /-- IDX1, 9-bit constant offset (R62) -/
  | const9 (base : Base) (off : Int)
  /-- IDX2, 16-bit constant offset (R63) -/
  | const16 (base : Base) (off : Word)
  /-- [D,IDX] (R64) -/
  | indD (base : Base)
  /-- [IDX2] (R65) -/
  | ind16 (base : Base) (off : Word)
  deriving DecidableEq, Repr

/-- The sub-modes that a postbyte selects (R55, what `DecodeXB` returns). -/
inductive Submode where
  | const5 (base : Base) (off : Int)
  | auto (reg : IndexReg) (pre : Bool) (delta : Int)
  | const9 (base : Base) (sign : Bool)
  | const16 (base : Base)
  | ind16 (base : Base)
  | accOff (base : Base) (acc : Acc)
  | indD (base : Base)
  deriving DecidableEq, Repr

/-- The mnemonics with a memory operand. -/
inductive MemOp where
  | ldaa
  | adda
  | staa
  | stab
  deriving DecidableEq, Repr

/-- The mnemonics with an immediate form: there is no STAA or STAB immediate (R53, R56). -/
inductive ImmOp where
  | ldaa
  | adda
  deriving DecidableEq, Repr

/-- The inherent mnemonics. -/
inductive InhOp where
  | inca
  | clrb
  | decb
  | lsra
  | asra
  | swi
  deriving DecidableEq, Repr

/-- An instruction as operation and operand form. -/
inductive Form where
  | inh (op : InhOp)
  | imm (op : ImmOp) (ii : Byte)
  | mem (op : MemOp) (m : MemOperand)
  deriving DecidableEq, Repr

/-- The instructions: one constructor per row of spec/opcode_table.json. -/
inductive Instr where
  /-- LDAA IMM: the byte `ii` (R56) -/
  | ldaaImm (ii : Byte)
  /-- LDAA DIR: the low byte of the address (R57) -/
  | ldaaDir (dd : Byte)
  /-- LDAA EXT: the 16-bit address `hh : ll` (R58) -/
  | ldaaExt (hhll : Word)
  /-- LDAA IDX, 5-bit signed constant offset (R59) -/
  | ldaaConst5 (base : Base) (off : Int)
  /-- LDAA IDX, auto pre/post increment/decrement of X (R60) -/
  | ldaaAutoX (pre : Bool) (delta : Int)
  /-- LDAA IDX, auto pre/post increment/decrement of Y (R60) -/
  | ldaaAutoY (pre : Bool) (delta : Int)
  /-- LDAA IDX, auto pre/post increment/decrement of SP (R60) -/
  | ldaaAutoSP (pre : Bool) (delta : Int)
  /-- LDAA IDX, accumulator A offset (R61) -/
  | ldaaAccA (base : Base)
  /-- LDAA IDX, accumulator B offset (R61) -/
  | ldaaAccB (base : Base)
  /-- LDAA IDX, accumulator D offset (R61) -/
  | ldaaAccD (base : Base)
  /-- LDAA IDX1, 9-bit signed constant offset (R62) -/
  | ldaaConst9 (base : Base) (off : Int)
  /-- LDAA IDX2, 16-bit constant offset (R63) -/
  | ldaaConst16 (base : Base) (off : Word)
  /-- LDAA [D,IDX], accumulator D offset, indirect (R64) -/
  | ldaaIndD (base : Base)
  /-- LDAA [IDX2], 16-bit constant offset, indirect (R65) -/
  | ldaaInd16 (base : Base) (off : Word)
  /-- ADDA IMM: the byte `ii` (R56) -/
  | addaImm (ii : Byte)
  /-- ADDA DIR: the low byte of the address (R57) -/
  | addaDir (dd : Byte)
  /-- ADDA EXT: the 16-bit address `hh : ll` (R58) -/
  | addaExt (hhll : Word)
  /-- ADDA IDX, 5-bit signed constant offset (R59) -/
  | addaConst5 (base : Base) (off : Int)
  /-- ADDA IDX, auto pre/post increment/decrement of X (R60) -/
  | addaAutoX (pre : Bool) (delta : Int)
  /-- ADDA IDX, auto pre/post increment/decrement of Y (R60) -/
  | addaAutoY (pre : Bool) (delta : Int)
  /-- ADDA IDX, auto pre/post increment/decrement of SP (R60) -/
  | addaAutoSP (pre : Bool) (delta : Int)
  /-- ADDA IDX, accumulator A offset (R61) -/
  | addaAccA (base : Base)
  /-- ADDA IDX, accumulator B offset (R61) -/
  | addaAccB (base : Base)
  /-- ADDA IDX, accumulator D offset (R61) -/
  | addaAccD (base : Base)
  /-- ADDA IDX1, 9-bit signed constant offset (R62) -/
  | addaConst9 (base : Base) (off : Int)
  /-- ADDA IDX2, 16-bit constant offset (R63) -/
  | addaConst16 (base : Base) (off : Word)
  /-- ADDA [D,IDX], accumulator D offset, indirect (R64) -/
  | addaIndD (base : Base)
  /-- ADDA [IDX2], 16-bit constant offset, indirect (R65) -/
  | addaInd16 (base : Base) (off : Word)
  /-- STAA DIR: the low byte of the address (R57) -/
  | staaDir (dd : Byte)
  /-- STAA EXT: the 16-bit address `hh : ll` (R58) -/
  | staaExt (hhll : Word)
  /-- STAA IDX, 5-bit signed constant offset (R59) -/
  | staaConst5 (base : Base) (off : Int)
  /-- STAA IDX, auto pre/post increment/decrement of X (R60) -/
  | staaAutoX (pre : Bool) (delta : Int)
  /-- STAA IDX, auto pre/post increment/decrement of Y (R60) -/
  | staaAutoY (pre : Bool) (delta : Int)
  /-- STAA IDX, auto pre/post increment/decrement of SP (R60) -/
  | staaAutoSP (pre : Bool) (delta : Int)
  /-- STAA IDX, accumulator A offset (R61) -/
  | staaAccA (base : Base)
  /-- STAA IDX, accumulator B offset (R61) -/
  | staaAccB (base : Base)
  /-- STAA IDX, accumulator D offset (R61) -/
  | staaAccD (base : Base)
  /-- STAA IDX1, 9-bit signed constant offset (R62) -/
  | staaConst9 (base : Base) (off : Int)
  /-- STAA IDX2, 16-bit constant offset (R63) -/
  | staaConst16 (base : Base) (off : Word)
  /-- STAA [D,IDX], accumulator D offset, indirect (R64) -/
  | staaIndD (base : Base)
  /-- STAA [IDX2], 16-bit constant offset, indirect (R65) -/
  | staaInd16 (base : Base) (off : Word)
  /-- STAB DIR: the low byte of the address (R57) -/
  | stabDir (dd : Byte)
  /-- STAB EXT: the 16-bit address `hh : ll` (R58) -/
  | stabExt (hhll : Word)
  /-- STAB IDX, 5-bit signed constant offset (R59) -/
  | stabConst5 (base : Base) (off : Int)
  /-- STAB IDX, auto pre/post increment/decrement of X (R60) -/
  | stabAutoX (pre : Bool) (delta : Int)
  /-- STAB IDX, auto pre/post increment/decrement of Y (R60) -/
  | stabAutoY (pre : Bool) (delta : Int)
  /-- STAB IDX, auto pre/post increment/decrement of SP (R60) -/
  | stabAutoSP (pre : Bool) (delta : Int)
  /-- STAB IDX, accumulator A offset (R61) -/
  | stabAccA (base : Base)
  /-- STAB IDX, accumulator B offset (R61) -/
  | stabAccB (base : Base)
  /-- STAB IDX, accumulator D offset (R61) -/
  | stabAccD (base : Base)
  /-- STAB IDX1, 9-bit signed constant offset (R62) -/
  | stabConst9 (base : Base) (off : Int)
  /-- STAB IDX2, 16-bit constant offset (R63) -/
  | stabConst16 (base : Base) (off : Word)
  /-- STAB [D,IDX], accumulator D offset, indirect (R64) -/
  | stabIndD (base : Base)
  /-- STAB [IDX2], 16-bit constant offset, indirect (R65) -/
  | stabInd16 (base : Base) (off : Word)
  /-- INCA (R91) -/
  | inca
  /-- CLRB (R92) -/
  | clrb
  /-- DECB (R93) -/
  | decb
  /-- LSRA (R100) -/
  | lsra
  /-- ASRA (R101) -/
  | asra
  /-- SWI (R105) -/
  | swi
  deriving DecidableEq, Repr

/-- An instruction's operation and operand form. -/
def Instr.form : Instr → Form
  | .ldaaImm ii => .imm .ldaa ii
  | .ldaaDir dd => .mem .ldaa (.dir dd)
  | .ldaaExt hhll => .mem .ldaa (.ext hhll)
  | .ldaaConst5 base off => .mem .ldaa (.const5 base off)
  | .ldaaAutoX pre delta => .mem .ldaa (.auto .x pre delta)
  | .ldaaAutoY pre delta => .mem .ldaa (.auto .y pre delta)
  | .ldaaAutoSP pre delta => .mem .ldaa (.auto .sp pre delta)
  | .ldaaAccA base => .mem .ldaa (.accOff base .a)
  | .ldaaAccB base => .mem .ldaa (.accOff base .b)
  | .ldaaAccD base => .mem .ldaa (.accOff base .d)
  | .ldaaConst9 base off => .mem .ldaa (.const9 base off)
  | .ldaaConst16 base off => .mem .ldaa (.const16 base off)
  | .ldaaIndD base => .mem .ldaa (.indD base)
  | .ldaaInd16 base off => .mem .ldaa (.ind16 base off)
  | .addaImm ii => .imm .adda ii
  | .addaDir dd => .mem .adda (.dir dd)
  | .addaExt hhll => .mem .adda (.ext hhll)
  | .addaConst5 base off => .mem .adda (.const5 base off)
  | .addaAutoX pre delta => .mem .adda (.auto .x pre delta)
  | .addaAutoY pre delta => .mem .adda (.auto .y pre delta)
  | .addaAutoSP pre delta => .mem .adda (.auto .sp pre delta)
  | .addaAccA base => .mem .adda (.accOff base .a)
  | .addaAccB base => .mem .adda (.accOff base .b)
  | .addaAccD base => .mem .adda (.accOff base .d)
  | .addaConst9 base off => .mem .adda (.const9 base off)
  | .addaConst16 base off => .mem .adda (.const16 base off)
  | .addaIndD base => .mem .adda (.indD base)
  | .addaInd16 base off => .mem .adda (.ind16 base off)
  | .staaDir dd => .mem .staa (.dir dd)
  | .staaExt hhll => .mem .staa (.ext hhll)
  | .staaConst5 base off => .mem .staa (.const5 base off)
  | .staaAutoX pre delta => .mem .staa (.auto .x pre delta)
  | .staaAutoY pre delta => .mem .staa (.auto .y pre delta)
  | .staaAutoSP pre delta => .mem .staa (.auto .sp pre delta)
  | .staaAccA base => .mem .staa (.accOff base .a)
  | .staaAccB base => .mem .staa (.accOff base .b)
  | .staaAccD base => .mem .staa (.accOff base .d)
  | .staaConst9 base off => .mem .staa (.const9 base off)
  | .staaConst16 base off => .mem .staa (.const16 base off)
  | .staaIndD base => .mem .staa (.indD base)
  | .staaInd16 base off => .mem .staa (.ind16 base off)
  | .stabDir dd => .mem .stab (.dir dd)
  | .stabExt hhll => .mem .stab (.ext hhll)
  | .stabConst5 base off => .mem .stab (.const5 base off)
  | .stabAutoX pre delta => .mem .stab (.auto .x pre delta)
  | .stabAutoY pre delta => .mem .stab (.auto .y pre delta)
  | .stabAutoSP pre delta => .mem .stab (.auto .sp pre delta)
  | .stabAccA base => .mem .stab (.accOff base .a)
  | .stabAccB base => .mem .stab (.accOff base .b)
  | .stabAccD base => .mem .stab (.accOff base .d)
  | .stabConst9 base off => .mem .stab (.const9 base off)
  | .stabConst16 base off => .mem .stab (.const16 base off)
  | .stabIndD base => .mem .stab (.indD base)
  | .stabInd16 base off => .mem .stab (.ind16 base off)
  | .inca => .inh .inca
  | .clrb => .inh .clrb
  | .decb => .inh .decb
  | .lsra => .inh .lsra
  | .asra => .inh .asra
  | .swi => .inh .swi

/-- The row of the opcode table for an operation and an operand form. -/
def Form.toInstr : Form → Instr
  | .imm .ldaa ii => .ldaaImm ii
  | .mem .ldaa (.dir dd) => .ldaaDir dd
  | .mem .ldaa (.ext hhll) => .ldaaExt hhll
  | .mem .ldaa (.const5 base off) => .ldaaConst5 base off
  | .mem .ldaa (.auto .x pre delta) => .ldaaAutoX pre delta
  | .mem .ldaa (.auto .y pre delta) => .ldaaAutoY pre delta
  | .mem .ldaa (.auto .sp pre delta) => .ldaaAutoSP pre delta
  | .mem .ldaa (.accOff base .a) => .ldaaAccA base
  | .mem .ldaa (.accOff base .b) => .ldaaAccB base
  | .mem .ldaa (.accOff base .d) => .ldaaAccD base
  | .mem .ldaa (.const9 base off) => .ldaaConst9 base off
  | .mem .ldaa (.const16 base off) => .ldaaConst16 base off
  | .mem .ldaa (.indD base) => .ldaaIndD base
  | .mem .ldaa (.ind16 base off) => .ldaaInd16 base off
  | .imm .adda ii => .addaImm ii
  | .mem .adda (.dir dd) => .addaDir dd
  | .mem .adda (.ext hhll) => .addaExt hhll
  | .mem .adda (.const5 base off) => .addaConst5 base off
  | .mem .adda (.auto .x pre delta) => .addaAutoX pre delta
  | .mem .adda (.auto .y pre delta) => .addaAutoY pre delta
  | .mem .adda (.auto .sp pre delta) => .addaAutoSP pre delta
  | .mem .adda (.accOff base .a) => .addaAccA base
  | .mem .adda (.accOff base .b) => .addaAccB base
  | .mem .adda (.accOff base .d) => .addaAccD base
  | .mem .adda (.const9 base off) => .addaConst9 base off
  | .mem .adda (.const16 base off) => .addaConst16 base off
  | .mem .adda (.indD base) => .addaIndD base
  | .mem .adda (.ind16 base off) => .addaInd16 base off
  | .mem .staa (.dir dd) => .staaDir dd
  | .mem .staa (.ext hhll) => .staaExt hhll
  | .mem .staa (.const5 base off) => .staaConst5 base off
  | .mem .staa (.auto .x pre delta) => .staaAutoX pre delta
  | .mem .staa (.auto .y pre delta) => .staaAutoY pre delta
  | .mem .staa (.auto .sp pre delta) => .staaAutoSP pre delta
  | .mem .staa (.accOff base .a) => .staaAccA base
  | .mem .staa (.accOff base .b) => .staaAccB base
  | .mem .staa (.accOff base .d) => .staaAccD base
  | .mem .staa (.const9 base off) => .staaConst9 base off
  | .mem .staa (.const16 base off) => .staaConst16 base off
  | .mem .staa (.indD base) => .staaIndD base
  | .mem .staa (.ind16 base off) => .staaInd16 base off
  | .mem .stab (.dir dd) => .stabDir dd
  | .mem .stab (.ext hhll) => .stabExt hhll
  | .mem .stab (.const5 base off) => .stabConst5 base off
  | .mem .stab (.auto .x pre delta) => .stabAutoX pre delta
  | .mem .stab (.auto .y pre delta) => .stabAutoY pre delta
  | .mem .stab (.auto .sp pre delta) => .stabAutoSP pre delta
  | .mem .stab (.accOff base .a) => .stabAccA base
  | .mem .stab (.accOff base .b) => .stabAccB base
  | .mem .stab (.accOff base .d) => .stabAccD base
  | .mem .stab (.const9 base off) => .stabConst9 base off
  | .mem .stab (.const16 base off) => .stabConst16 base off
  | .mem .stab (.indD base) => .stabIndD base
  | .mem .stab (.ind16 base off) => .stabInd16 base off
  | .inh .inca => .inca
  | .inh .clrb => .clrb
  | .inh .decb => .decb
  | .inh .lsra => .lsra
  | .inh .asra => .asra
  | .inh .swi => .swi

/-- LDAA with a memory operand (R80). -/
abbrev Instr.ldaa (m : MemOperand) : Instr := (Form.mem .ldaa m).toInstr

/-- ADDA with a memory operand (R90). -/
abbrev Instr.adda (m : MemOperand) : Instr := (Form.mem .adda m).toInstr

/-- STAA with a memory operand (R81). -/
abbrev Instr.staa (m : MemOperand) : Instr := (Form.mem .staa m).toInstr

/-- STAB with a memory operand (R82). -/
abbrev Instr.stab (m : MemOperand) : Instr := (Form.mem .stab m).toInstr

end Sys2Proof
end

