-- ==== Sys2Proof/Config.lean ====
section
/-! DEFINITION. The launch parameters of the spec (00_scope.md R5, 70_reset_and_hazards.md R134) as plain data, their
defaults, and the free values: constants without a body, for what the spec leaves unspecified. -/

namespace Sys2Proof

/-- The two families; the choice selects an Access Detail column and nothing else (R1, R139). -/
inductive Variant where
  | hcs12
  | m68hc12
  deriving DecidableEq, Repr

/-- A range of addresses, both ends included. A set that wraps past `$FFFF` is written as two ranges. -/
structure AddrRange where
  first : Word
  last  : Word
  deriving DecidableEq, Repr

/-- What `MEM_MAP` may say of an address (R36): plain read-write memory, memory that is not writable, device
registers with side effects, nothing at all. -/
inductive RegionKind where
  | plain
  | readOnly
  | device
  | absent
  deriving DecidableEq, Repr

/-- One entry of `MEM_MAP` (R36). -/
structure Region where
  range : AddrRange
  kind  : RegionKind
  deriving DecidableEq, Repr

/-- One entry of `IRQ_SOURCES` (R116): a vector address, a maskable flag and a request input. -/
structure IrqSource where
  vector    : Word
  maskable  : Bool
  requested : Bool
  deriving DecidableEq, Repr

/-- `XB_DECODE` (R5, R55) as plain data: the postbytes whose sub-mode differs from the default table's, each with its
sub-mode; `submodeOf` of Decode.lean reads it. Every function from postbytes to sub-modes is one of these (log 11). -/
abbrev XbTable := List (Byte × Submode)

/-- The default of `XB_DECODE`: the table of R55 with nothing changed. -/
abbrev defaultXB : XbTable := []

/-- The parameters of R5 that a launch state gives (R134). `IRQ_SOURCES` stands in the state itself, since it carries the pending requests. -/
structure Params where
  variant     : Variant
  swiVector   : Word
  unimplVector : Word
  resetVector : Word
  directBase  : Byte
  xbDecode    : XbTable
  memMap      : List Region
  codeRegion  : List AddrRange
  endAddr     : Option Word
  deriving DecidableEq, Repr

/-- The defaults of R5. UNVERIFIED (logs 10, 11, 15; the spec's own general knowledge): the vector addresses, the direct
base and the postbyte table. DESIGN CHOICE (logs 17, 22, 23): an empty `CODE_REGION`, no `END_ADDR`, the first variant. -/
def Config.default : Params where
  variant      := .hcs12
  swiVector    := 0xFFF6
  unimplVector := 0xFFF8
  resetVector  := 0xFFFE
  directBase   := 0x00
  xbDecode     := defaultXB
  memMap       := []
  codeRegion   := []
  endAddr      := none

/-- Free value: the n-th unspecified byte drawn (R24, R131; log 33). -/
opaque Config.unspecifiedByte : Nat → Byte

/-- Free value: the n-th unspecified 16-bit value drawn (R24, R131; log 33). -/
opaque Config.unspecifiedWord : Nat → Word

/-- Free value: the n-th unspecified flag drawn (R24, R131; log 33). -/
opaque Config.unspecifiedBit : Nat → Bool

/-- Free value: which of the enabled hardware interrupt sources is taken at the n-th choice. An index past the end of
the list of enabled sources means that none is taken (R116, R118; log 20). -/
opaque Config.interruptChoice : Nat → Nat

end Sys2Proof
end

