-- ==== Sys2Proof/WellFormed.lean ====
section
/-! DEFINITION. Which instructions an encoding can hold (spec 30_encoding.md R55, R59, R60, R62): the ranges of the
constant offsets and of the auto increment/decrement step. Every other field is as wide as its encoding. -/

namespace Sys2Proof

/-- R59: the 5-bit offset is -16 to +15. -/
def offset5InRange (off : Int) : Bool := -16 ≤ off && off ≤ 15

/-- R62: the 9-bit offset is -256 to +255. -/
def offset9InRange (off : Int) : Bool := -256 ≤ off && off ≤ 255

/-- R60: the step is +1 to +8 or -8 to -1. -/
def autoStepInRange (delta : Int) : Bool := (1 ≤ delta && delta ≤ 8) || (-8 ≤ delta && delta ≤ -1)

def MemOperand.wf : MemOperand → Bool
  | .dir _ => true
  | .ext _ => true
  | .const5 _ off => offset5InRange off
  | .auto _ _ delta => autoStepInRange delta
  | .accOff _ _ => true
  | .const9 _ off => offset9InRange off
  | .const16 _ _ => true
  | .indD _ => true
  | .ind16 _ _ => true

def Form.wf : Form → Bool
  | .inh _ => true
  | .imm _ _ => true
  | .mem _ m => m.wf

/-- The instruction has an encoding. -/
abbrev Instr.WellFormed (i : Instr) : Prop := i.form.wf = true

end Sys2Proof
end

