-- ==== Sys2Proof/Decode.lean ====
section
/-! DEFINITION. Decoding and encoding (spec 30_encoding.md R50 to R55, R67, R68, R72): the opcode table, the postbyte
table and `XB_DECODE`, the decoder on any bytes, and after it the encoder. -/

namespace Sys2Proof

/-- How byte 0 says the operand is given (R51); the five indexed modes share one opcode byte. -/
inductive Mode where
  | dir
  | ext
  | idx
  deriving DecidableEq, Repr

/-- What byte 0 selects (R53). -/
inductive Opcode where
  | inh (op : InhOp)
  | imm (op : ImmOp)
  | mem (op : MemOp) (mode : Mode)
  deriving DecidableEq, Repr

/-- R53: the twenty opcode bytes the source defines, in numeric order. -/
def opcodeTable : List (Byte × Opcode) :=
  [(0x3F, .inh .swi), (0x42, .inh .inca), (0x44, .inh .lsra), (0x47, .inh .asra), (0x53, .inh .decb)] ++
  [(0x5A, .mem .staa .dir), (0x5B, .mem .stab .dir), (0x6A, .mem .staa .idx), (0x6B, .mem .stab .idx)] ++
  [(0x7A, .mem .staa .ext), (0x7B, .mem .stab .ext), (0x86, .imm .ldaa), (0x8B, .imm .adda)] ++
  [(0x96, .mem .ldaa .dir), (0x9B, .mem .adda .dir), (0xA6, .mem .ldaa .idx), (0xAB, .mem .adda .idx)] ++
  [(0xB6, .mem .ldaa .ext), (0xBB, .mem .adda .ext), (0xC7, .inh .clrb)]

/-- The table's entry for a byte. -/
def opcodeIn : List (Byte × Opcode) → Byte → Option Opcode
  | [], _ => none
  | (k, op) :: rest, b => if b = k then some op else opcodeIn rest b

/-- What byte 0 selects; `none` for the 236 bytes outside this spec (R68). -/
def opcodeOf (b0 : Byte) : Option Opcode := opcodeIn opcodeTable b0

/-- R55, the register field `rr`: X, Y, SP, PC. -/
def baseOf (rr : BitVec 2) : Base :=
  if rr = 0 then .x else if rr = 1 then .y else if rr = 2 then .sp else .pc

/-- R60: the four bits `nnnn` of the auto sub-mode, +1 to +8 and -8 to -1. -/
def autoDelta (n : BitVec 4) : Int :=
  if n.getLsbD 3 then (n.toNat : Int) - 16 else (n.toNat : Int) + 1

/-- The auto sub-mode for a base field; `rr = %11` is not one of its rows (R55). -/
def autoOrExtended (rr : BitVec 2) (pre : Bool) (delta : Int) (extended : Submode) : Submode :=
  if rr = 0 then .auto .x pre delta
  else if rr = 1 then .auto .y pre delta
  else if rr = 2 then .auto .sp pre delta
  else extended

/-- R55, the rows `111rrsss`. -/
def extendedSubmode (base : Base) (sel : BitVec 3) : Submode :=
  if sel = 0 then .const9 base false
  else if sel = 1 then .const9 base true
  else if sel = 2 then .const16 base
  else if sel = 3 then .ind16 base
  else if sel = 4 then .accOff base .a
  else if sel = 5 then .accOff base .b
  else if sel = 6 then .accOff base .d
  else .indD base

/-- R55, `DecodeXB`. UNVERIFIED (log 11): the layout is the spec's own general knowledge, the default of `XB_DECODE`. -/
def decodeXB (xb : Byte) : Submode :=
  if xb.getLsbD 5 = false then .const5 (baseOf (xb.extractLsb' 6 2)) (xb.extractLsb' 0 5).toInt
  else
    autoOrExtended (xb.extractLsb' 6 2) (!xb.getLsbD 4) (autoDelta (xb.extractLsb' 0 4))
      (extendedSubmode (baseOf (xb.extractLsb' 3 2)) (xb.extractLsb' 0 3))

/-- R5, R72: the sub-mode that `XB_DECODE` gives a postbyte: that of the first entry for it, else the default's. -/
def submodeOf : XbTable → Byte → Submode
  | [], xb => decodeXB xb
  | (k, sub) :: rest, xb => if xb = k then sub else submodeOf rest xb

/-- R62: the 9-bit two's complement offset `b1[0] : b2`. -/
def offset9 (sign : Bool) (ff : Byte) : Int := (BitVec.ofBool sign ++ ff).toInt

/-- The operand of an indexed instruction from its sub-mode and the two bytes after the postbyte (R59 to R65). -/
def indexedOperand (sub : Submode) (b2 b3 : Byte) : MemOperand :=
  match sub with
  | .const5 base off => .const5 base off
  | .auto reg pre delta => .auto reg pre delta
  | .const9 base sign => .const9 base (offset9 sign b2)
  | .const16 base => .const16 base (Word.ofBytes b2 b3)
  | .ind16 base => .ind16 base (Word.ofBytes b2 b3)
  | .accOff base acc => .accOff base acc
  | .indD base => .indD base

/-- The form that four bytes in memory order begin with, under `XB_DECODE` = `t` (R72). A byte beyond the form's length has
no part in it. -/
def decodeForm (t : XbTable) (b0 b1 b2 b3 : Byte) : Option Form :=
  match opcodeOf b0 with
  | none => none
  | some (.inh op) => some (.inh op)
  | some (.imm op) => some (.imm op b1)
  | some (.mem op .dir) => some (.mem op (.dir b1))
  | some (.mem op .ext) => some (.mem op (.ext (Word.ofBytes b1 b2)))
  | some (.mem op .idx) => some (.mem op (indexedOperand (submodeOf t b1) b2 b3))

/-- The instruction that four bytes in memory order begin with, under `XB_DECODE` = `t` (R72). -/
def decode4 (t : XbTable) (b0 b1 b2 b3 : Byte) : Option Instr := (decodeForm t b0 b1 b2 b3).map Form.toInstr

/-- R51, R67: the operand form's instruction length, 2 plus the number of bytes after the first operand byte. -/
def MemOperand.length : MemOperand → Nat
  | .dir _ => 2
  | .ext _ => 3
  | .const5 _ _ => 2
  | .auto _ _ _ => 2
  | .accOff _ _ => 2
  | .const9 _ _ => 3
  | .const16 _ _ => 4
  | .indD _ => 2
  | .ind16 _ _ => 4

/-- R51, R67: the length in bytes. -/
def Form.length : Form → Nat
  | .inh _ => 1
  | .imm _ _ => 2
  | .mem _ m => m.length

/-- R67: the instruction's length in bytes. -/
def Instr.length (i : Instr) : Nat := i.form.length

/-- Why bytes are no instruction. -/
inductive DecodeError where
  /-- byte 0 is not in the table of R53 (R68) -/
  | opcodeNotInSource (b0 : Byte)
  /-- the bytes end before the instruction does -/
  | truncated
  deriving DecidableEq, Repr

/-- What the decoder reads from bytes: an instruction and the bytes after it, or why there is none. -/
inductive Decoded where
  | instruction (i : Instr) (rest : List Byte)
  | rejected (why : DecodeError)
  deriving DecidableEq, Repr

/-- The decoder on any bytes, under `XB_DECODE` = `t` (R72). -/
def decode (t : XbTable) : List Byte → Decoded
  | [] => .rejected .truncated
  | b0 :: rest =>
    match decode4 t b0 (rest.getD 0 0) (rest.getD 1 0) (rest.getD 2 0) with
    | none => .rejected (.opcodeNotInSource b0)
    | some i =>
      if i.length ≤ (b0 :: rest).length then .instruction i ((b0 :: rest).drop i.length) else .rejected .truncated

/-! The encoder, written from the same tables (R53, R55): `XB_DECODE` at its default. -/

/-- R53, the opcode byte of an inherent instruction. -/
def inhOpcode : InhOp → Byte
  | .inca => 0x42
  | .clrb => 0xC7
  | .decb => 0x53
  | .lsra => 0x44
  | .asra => 0x47
  | .swi => 0x3F

/-- R53, the opcode byte of an immediate form. -/
def immOpcode : ImmOp → Byte
  | .ldaa => 0x86
  | .adda => 0x8B

/-- R53, the opcode byte of a memory form. -/
def memOpcode : MemOp → Mode → Byte
  | .ldaa, .dir => 0x96
  | .ldaa, .ext => 0xB6
  | .ldaa, .idx => 0xA6
  | .adda, .dir => 0x9B
  | .adda, .ext => 0xBB
  | .adda, .idx => 0xAB
  | .staa, .dir => 0x5A
  | .staa, .ext => 0x7A
  | .staa, .idx => 0x6A
  | .stab, .dir => 0x5B
  | .stab, .ext => 0x7B
  | .stab, .idx => 0x6B

/-- R55, the register field `rr`. -/
def Base.field : Base → BitVec 2
  | .x => 0
  | .y => 1
  | .sp => 2
  | .pc => 3

/-- R55, the register field `rr` of the auto sub-mode. -/
def IndexReg.field : IndexReg → BitVec 2
  | .x => 0
  | .y => 1
  | .sp => 2

/-- R60: `nnnn` = 0..7 is +1..+8, 8..15 is -8..-1. -/
def autoNibble (delta : Int) : BitVec 4 :=
  if 0 < delta then BitVec.ofInt 4 (delta - 1) else BitVec.ofInt 4 delta

/-- R55, a row `111rrsss`. -/
def extendedXB (base : Base) (sel : BitVec 3) : Byte := 7#3 ++ base.field ++ sel

/-- R55, the low three bits of an accumulator offset. -/
def Acc.select : Acc → BitVec 3
  | .a => 4
  | .b => 5
  | .d => 6

/-- The nine bits of a 9-bit offset (R62). -/
def offset9Bits (off : Int) : BitVec 9 := BitVec.ofInt 9 off

/-- The bytes after an indexed opcode byte: the postbyte and its extension bytes (R55, R59 to R65). -/
def MemOperand.operandBytes : MemOperand → List Byte
  | .dir dd => [dd]
  | .ext hhll => [hhll.hi, hhll.lo]
  | .const5 base off => [base.field ++ 0#1 ++ BitVec.ofInt 5 off]
  | .auto reg pre delta => [reg.field ++ 1#1 ++ BitVec.ofBool (!pre) ++ autoNibble delta]
  | .accOff base acc => [extendedXB base acc.select]
  | .const9 base off =>
    [extendedXB base (0#2 ++ BitVec.ofBool (offset9Bits off).msb), (offset9Bits off).setWidth 8]
  | .const16 base off => [extendedXB base 2, off.hi, off.lo]
  | .indD base => [extendedXB base 7]
  | .ind16 base off => [extendedXB base 3, off.hi, off.lo]

/-- R51: the mode of byte 0 for an operand form. -/
def MemOperand.mode : MemOperand → Mode
  | .dir _ => .dir
  | .ext _ => .ext
  | .const5 _ _ => .idx
  | .auto _ _ _ => .idx
  | .accOff _ _ => .idx
  | .const9 _ _ => .idx
  | .const16 _ _ => .idx
  | .indD _ => .idx
  | .ind16 _ _ => .idx

def Form.encode : Form → List Byte
  | .inh op => [inhOpcode op]
  | .imm op ii => [immOpcode op, ii]
  | .mem op m => memOpcode op m.mode :: m.operandBytes

/-- The instruction's bytes in memory order, opcode first (R50). -/
def encode (i : Instr) : List Byte := i.form.encode

/-! The opcode table's numbering of an instruction's bits: bit 0 is the least significant bit of the first byte. -/

/-- Byte `k` in memory order of the instruction whose `nbits` table bits are `w`; a bit above them is 0. -/
def tableByte (nbits w k : Nat) : Byte := BitVec.ofNat 8 ((w % 2 ^ nbits) / 256 ^ k)

/-- The instruction the decoder reads from the bits `w` of a row of spec/opcode_table.json, whose postbytes are those of the
default `XB_DECODE`. -/
def decodeTableWord (nbits w : Nat) : Option Instr :=
  match decode defaultXB [tableByte nbits w 0, tableByte nbits w 1, tableByte nbits w 2, tableByte nbits w 3] with
  | .instruction i _ => some i
  | .rejected _ => none

end Sys2Proof
end

