-- ==== Sys2Proof/Machine/Memory.lean ====
section
/-! DEFINITION. Memory as plain data (spec 20_memory.md R30, R46): a list of (address, byte) cells in one canonical
form, its read of one byte and its write of one byte; and the lookups in the address ranges of the launch
parameters (R36, R43). -/

namespace Sys2Proof.Machine

/-- R20, R30: the map from addresses to bytes, listing the bytes that differ from `Memory.unlisted`. -/
abbrev Memory := List Host.Cell

/-- What an unlisted byte reads as. DESIGN CHOICE, unsafe (log 4): R46 leaves the value unspecified. -/
def Memory.unlisted : Byte := 0xFF

/-- The byte at an address. -/
def Memory.read : Memory → Nat → Byte
  | [], _ => Memory.unlisted
  | (k, w) :: rest, a => if a = k then w else Memory.read rest a

/-- The cells with the byte at an address replaced, in canonical form. -/
def Memory.write : Memory → Nat → Byte → Memory
  | [], a, v => if v = Memory.unlisted then [] else [(a, v)]
  | (k, w) :: rest, a, v =>
    if a < k then (if v = Memory.unlisted then (k, w) :: rest else (a, v) :: (k, w) :: rest)
    else if a = k then (if v = Memory.unlisted then rest else (a, v) :: rest)
    else (k, w) :: Memory.write rest a v

/-- The canonical form: addresses strictly rising and inside the 65,536 bytes of R30, no cell that reads as an
unlisted byte does. -/
abbrev Memory.wf (m : Memory) : Prop :=
  m.Pairwise (fun c d => c.1 < d.1) ∧ ∀ c ∈ m, c.1 < 65536 ∧ c.2 ≠ Memory.unlisted

/-- The address lies in the range. -/
def inRange (r : AddrRange) (a : Word) : Bool := r.first.toNat ≤ a.toNat && a.toNat ≤ r.last.toNat

/-- R36: what `MEM_MAP` says of an address. The first entry that holds the address decides; an address in no entry is
plain memory, so that the default, the empty map, makes all 65,536 bytes plain (log 16). -/
def kindIn : List Region → Word → RegionKind
  | [], _ => .plain
  | r :: rest, a => if inRange r.range a then r.kind else kindIn rest a

/-- R43: the address lies in `CODE_REGION`. -/
def inCode (code : List AddrRange) (a : Word) : Bool := code.any (fun r => inRange r a)

/-- R31, R32: a 16-bit read is two byte reads, the high byte at the lower address, the second address modulo 65536. -/
def Memory.readWord (m : Memory) (a : Word) : Word :=
  Word.ofBytes (m.read a.toNat) (m.read (a + 1).toNat)

end Sys2Proof.Machine
end

