-- ==== Sys2Proof/Machine/State.lean ====
section
/-! DEFINITION. The state of the machine as plain data (spec 10_state.md), the reasons a step can stop, and the state
right after reset. -/

namespace Sys2Proof.Machine

/-- R15: the condition code register, the eight flags in the order the source prints them. -/
@[ext]
structure Ccr where
  s : Bool
  x : Bool
  h : Bool
  i : Bool
  n : Bool
  z : Bool
  v : Bool
  c : Bool
  deriving DecidableEq, Repr

/-- All the state the spec gives the machine (R10 to R21), the launch parameters (R5, R134), and two fields of the
model's own: `resetRequested`, an input (log 21), and `draws`, which counts the free values drawn (log 33). -/
@[ext]
structure State where
  /-- accumulator A (R10) -/
  a    : Byte
  /-- accumulator B (R10) -/
  b    : Byte
  /-- index register X (R12) -/
  x    : Word
  /-- index register Y (R12) -/
  y    : Word
  /-- stack pointer (R13) -/
  sp   : Word
  /-- program counter: the address of the next instruction's first byte (R14) -/
  pc   : Word
  /-- condition code register (R15) -/
  ccr  : Ccr
  /-- memory (R20) -/
  mem  : Memory
  /-- the hardware interrupt sources and their requests (R21 (a), R116) -/
  irq  : List IrqSource
  /-- the launch parameters (R5, R134); no step changes them -/
  cfg  : Params
  /-- the model's own input: a reset is requested (R3 (c), R131; log 21) -/
  resetRequested : Bool
  /-- the model's own counter of free values drawn (log 33) -/
  draws : Nat
  deriving DecidableEq, Repr

/-- Why the machine stops without being refused. -/
inductive Fault where
  /-- The run has ended: pc is `END_ADDR` at an instruction boundary (R140). Raised by `step` before it fetches. Safe:
  the processor goes on, and the model says nothing of what follows (log 22). -/
  | endOfRun
  deriving DecidableEq, Repr

/-- Why the model has no next state. -/
inductive Refusal where
  /-- An instruction that has no meaning yet; raised by no arm. Safe. -/
  | notModelled (mnemonic : String)
  /-- Byte 0 is none of the twenty opcode bytes (R68). Raised by the fetch. Safe (log 13). -/
  | opcodeNotInSource (b0 : Byte)
  /-- `MEM_MAP` says that nothing is at this address (R36, R46). Raised by any access. Safe (log 16). -/
  | absentAddress (a : Word)
  /-- `MEM_MAP` says that this address has side effects (R35, R36). Raised by any access. Safe (log 16). -/
  | deviceAddress (a : Word)
  /-- `MEM_MAP` says that this address is not writable (R36). Raised by a store or a push. Safe (log 16). -/
  | readOnlyAddress (a : Word)
  /-- A store or a push into `CODE_REGION` (R43, R106). Safe (log 17). -/
  | storeIntoCode (a : Word)
  /-- The nine-byte frame of an exception entry covers a byte of its vector (R106). Raised by SWI and every other
  entry. Safe (log 18). -/
  | frameOverVector
  deriving DecidableEq, Repr

/-- The outcome of an instruction or of a step. -/
abbrev Result := Host.Outcome State Fault Refusal

/-- The machine right after reset (R23, R131): pc from the reset vector, S, X and I set, no request pending, nothing
listed in memory, the parameters at their defaults. DESIGN CHOICE, unsafe (logs 1, 2): A, B, X, Y, SP and the flags H,
N, Z, V, C, which the spec leaves unspecified, hold the values of the launch states of 95_test_vectors.md section 3. -/
def State.reset : State where
  a    := 0x12
  b    := 0x34
  x    := 0x5678
  y    := 0x9ABC
  sp   := 0x3000
  pc   := Memory.readWord [] Config.default.resetVector
  ccr  := ⟨true, true, false, true, false, false, false, false⟩
  mem  := []
  irq  := []
  cfg  := Config.default
  resetRequested := false
  draws := 0

end Sys2Proof.Machine
end

