-- ==== Sys2Proof/Machine/Flags.lean ====
section
/-! DEFINITION. The condition codes: the register as one byte (spec 10_state.md R15) and the flag computation of every
instruction (40_load_store.md R83, 41_add_inc_dec_clr.md R90 to R95, 42_shift.md R100, R101). Each computation takes the
flags before and answers all eight after; a flag it does not name keeps its value (R16). -/

namespace Sys2Proof.Machine

/-- R15, `ccr = S:X:H:I:N:Z:V:C`, S bit 7. UNVERIFIED (log 5): the bit positions are the spec's general knowledge. -/
def Ccr.toByte (f : Ccr) : Byte :=
  BitVec.ofBool f.s ++ BitVec.ofBool f.x ++ BitVec.ofBool f.h ++ BitVec.ofBool f.i ++
  BitVec.ofBool f.n ++ BitVec.ofBool f.z ++ BitVec.ofBool f.v ++ BitVec.ofBool f.c

/-- The eight flags of a byte, the inverse of `Ccr.toByte` (R15). -/
def Ccr.ofByte (v : Byte) : Ccr :=
  ⟨v.getLsbD 7, v.getLsbD 6, v.getLsbD 5, v.getLsbD 4, v.getLsbD 3, v.getLsbD 2, v.getLsbD 1, v.getLsbD 0⟩

/-- R83: LDAA, STAA and STAB give the flags by one function of the byte moved. -/
def moveFlags (v : Byte) (f : Ccr) : Ccr := { f with n := v.msb, z := v == 0, v := false }

/-- R90: the 8-bit sum. -/
def addResult (a m : Byte) : Byte := BitVec.ofNat 8 (a.toNat + m.toNat)

/-- R90: ADDA's flags from the operands. -/
def addFlags (a m : Byte) (f : Ccr) : Ccr :=
  let res := addResult a m
  { f with
    h := a.toNat % 16 + m.toNat % 16 ≥ 16
    n := res.msb
    z := res == 0
    v := a.msb == m.msb && res.msb != a.msb
    c := a.toNat + m.toNat ≥ 256 }

/-- R91: INCA's flags from A before. -/
def incFlags (a : Byte) (f : Ccr) : Ccr :=
  { f with n := (a + 1).msb, z := a + 1 == 0, v := a == 0x7F }

/-- R92: CLRB's flags, constants. -/
def clrFlags (f : Ccr) : Ccr := { f with n := false, z := true, v := false, c := false }

/-- R93: DECB's flags from B before. -/
def decFlags (b : Byte) (f : Ccr) : Ccr :=
  { f with n := (b - 1).msb, z := b - 1 == 0, v := b == 0x80 }

/-- R100: bit 7 is loaded with 0. -/
def lsrResult (a : Byte) : Byte := 0#1 ++ a.extractLsb' 1 7

/-- R101: bit 7 is held constant. -/
def asrResult (a : Byte) : Byte := BitVec.ofBool a.msb ++ a.extractLsb' 1 7

/-- R100, R101: C from the bit shifted out, V = N xor C for N and C after the shift. -/
def shiftFlags (res : Byte) (out : Bool) (f : Ccr) : Ccr :=
  { f with n := res.msb, z := res == 0, v := res.msb ^^ out, c := out }

/-- R100: LSRA's flags from A before; N is 0 since bit 7 of the result is. -/
def lsrFlags (a : Byte) (f : Ccr) : Ccr := shiftFlags (lsrResult a) (a.getLsbD 0) f

/-- R101: ASRA's flags from A before. -/
def asrFlags (a : Byte) (f : Ccr) : Ccr := shiftFlags (asrResult a) (a.getLsbD 0) f

/-- R112: `ccr.I <- 1`. -/
def setIFlag (f : Ccr) : Ccr := { f with i := true }

end Sys2Proof.Machine
end

