-- ==== Sys2Proof/Machine/Ops.lean ====
section
/-! DEFINITION. The named operations over registers and memory: views, updates, what an access needs, bytes and words
in memory, pushes, and taking an exception (spec 20_memory.md R30 to R46, 60_exceptions.md R112 to R117,
70_reset_and_hazards.md R130, R131). There is no return from an exception to stand beside the entry: the spec defines
none (R120, log 24). -/

namespace Sys2Proof.Machine

/-! Registers. -/

/-- R11: D is the view A : B, A high. UNVERIFIED (log 6). -/
def State.d (s : State) : Word := Word.ofBytes s.a s.b

def State.setA (s : State) (v : Byte) : State := { s with a := v }

def State.setB (s : State) (v : Byte) : State := { s with b := v }

def State.setSP (s : State) (v : Word) : State := { s with sp := v }

def State.setPc (s : State) (v : Word) : State := { s with pc := v }

def State.setCcr (s : State) (f : Ccr) : State := { s with ccr := f }

/-- The index registers as the auto sub-mode names them (R60). -/
def State.index (s : State) : IndexReg → Word
  | .x => s.x
  | .y => s.y
  | .sp => s.sp

def State.setIndex (s : State) (r : IndexReg) (v : Word) : State :=
  match r with
  | .x => { s with x := v }
  | .y => { s with y := v }
  | .sp => { s with sp := v }

/-- R14: `pc <- (pc + len) mod 65536`. -/
def State.advance (s : State) (len : Nat) : State := s.setPc (s.pc + BitVec.ofNat 16 len)

/-! Memory. -/

/-- The byte at an address: the model's read of one byte (R31). -/
def State.peek (s : State) (a : Word) : Byte := s.mem.read a.toNat

/-- The byte at an address replaced (R31). -/
def State.poke (s : State) (a : Word) (v : Byte) : State := { s with mem := s.mem.write a.toNat v }

/-- R31, R32: the 16-bit value at an address, high byte first. -/
def State.peekWord (s : State) (a : Word) : Word := s.mem.readWord a

/-- R31, R32: a 16-bit write, high byte at the lower address, the second address modulo 65536. -/
def State.pokeWord (s : State) (a : Word) (v : Word) : State := (s.poke a v.hi).poke (a + 1) v.lo

/-- R36: what `MEM_MAP` says of an address. -/
def State.kindAt (s : State) (a : Word) : RegionKind := kindIn s.cfg.memMap a

/-- Why a read of this byte is refused, if it is (R35, R36, R46). -/
def readRefusal (s : State) (a : Word) : Option Refusal :=
  match s.kindAt a with
  | .plain => none
  | .readOnly => none
  | .device => some (.deviceAddress a)
  | .absent => some (.absentAddress a)

/-- Why a write of this byte is refused, if it is (R35, R36, R43). DESIGN CHOICE, safe (log 34): for a byte of `CODE_REGION`
that `MEM_MAP` does not make plain memory, the reason of `MEM_MAP` is the one reported. -/
def writeRefusal (s : State) (a : Word) : Option Refusal :=
  match s.kindAt a with
  | .plain => if inCode s.cfg.codeRegion a then some (.storeIntoCode a) else none
  | .readOnly => some (.readOnlyAddress a)
  | .device => some (.deviceAddress a)
  | .absent => some (.absentAddress a)

/-- Why a 16-bit read is refused, if it is: a byte of it is, the lower address first (R31, R35; log 34). -/
def readWordRefusal (s : State) (a : Word) : Option Refusal :=
  match readRefusal s a with
  | some r => some r
  | none => readRefusal s (a + 1)

/-! The stack (R45): SP is moved first, then the item is stored at the new SP. -/

def State.pushWord (s : State) (v : Word) : State := (s.setSP (s.sp - 2)).pokeWord (s.sp - 2) v

def State.pushByte (s : State) (v : Byte) : State := (s.setSP (s.sp - 1)).poke (s.sp - 1) v

/-! Taking an exception. -/

/-- R113: the nine addresses of the frame, from the last byte stacked upward, `sp` being SP before the entry. -/
def frameAddresses (sp : Word) : List Word :=
  [sp - 9, sp - 8, sp - 7, sp - 6, sp - 5, sp - 4, sp - 3, sp - 2, sp - 1]

/-- R106: the frame covers a byte of the vector. -/
def frameCovers (sp vec : Word) : Bool := (frameAddresses sp).any (fun a => a == vec || a == vec + 1)

/-- Why an exception entry is refused, if it is: its frame covers its vector (R106, log 18), a byte of the frame may not
be written (R43, R36), or the vector may not be read (R36). DESIGN CHOICE, safe (log 34): where several reasons hold, the
one reported is the first of these, the lowest byte of the frame first; the spec says refused and not by which. -/
def entryRefusal (vec : Word) (s : State) : Option Refusal :=
  if frameCovers s.sp vec then some .frameOverVector
  else
    match (frameAddresses s.sp).findSome? (writeRefusal s) with
    | some r => some r
    | none => readWordRefusal s vec

/-- R112, the five pushes: return address, Y, X, B : A, CCR. -/
def pushFrame (ret : Word) (s : State) : State :=
  ((((s.pushWord ret).pushWord s.y).pushWord s.x).pushWord (Word.ofBytes s.b s.a)).pushByte s.ccr.toByte

/-- R112, `ExceptionEntry(ret, vec)`: the frame is stacked, I is set after the CCR is stacked, and pc is loaded from the
vector. -/
def exceptionEntry (ret vec : Word) (s : State) : Except Refusal State :=
  match entryRefusal vec s with
  | some r => .error r
  | none =>
    let t := pushFrame ret s
    .ok ((t.setCcr (setIFlag t.ccr)).setPc (t.peekWord vec))

/-- R116: a hardware interrupt, taken between two instructions: the return address is that of the instruction that
would have executed next. -/
def interruptEntry (src : IrqSource) (s : State) : Except Refusal State := exceptionEntry s.pc src.vector s

/-- R117: the unimplemented-opcode trap, `ret` the address of the byte after the unimplemented opcode. The model never
invokes it: an opcode byte outside R53 is refused (R68, R69, log 14). -/
def unimplementedOpcodeEntry (ret : Word) (s : State) : Except Refusal State :=
  exceptionEntry ret s.cfg.unimplVector s

/-- R131: the flags after a reset, S, X and I set, the others free values. -/
def resetFlags (n : Nat) : Ccr where
  s := true
  x := true
  h := Config.unspecifiedBit n
  i := true
  n := Config.unspecifiedBit (n + 1)
  z := Config.unspecifiedBit (n + 2)
  v := Config.unspecifiedBit (n + 3)
  c := Config.unspecifiedBit (n + 4)

/-- R130, R131, R132: a reset taken during a run. pc comes from the reset vector; S, X and I are set; A, B, X, Y, SP and
the other flags become free values; memory is not written; the request is answered (log 21). -/
def resetEntry (s : State) : Except Refusal State :=
  match readWordRefusal s s.cfg.resetVector with
  | some r => .error r
  | none =>
    .ok { s with
      a := Config.unspecifiedByte s.draws
      b := Config.unspecifiedByte (s.draws + 1)
      x := Config.unspecifiedWord s.draws
      y := Config.unspecifiedWord (s.draws + 1)
      sp := Config.unspecifiedWord (s.draws + 2)
      pc := s.peekWord s.cfg.resetVector
      ccr := resetFlags s.draws
      resetRequested := false
      draws := s.draws + 5 }

/-- The outcome of an operation that may be refused. -/
def outcomeOf : Except Refusal State → Result
  | .ok t => .next t
  | .error r => .refused r

end Sys2Proof.Machine
end

