-- ==== Sys2Proof/Machine/Boundary.lean ====
section
/-! DEFINITION. What happens between two instructions (spec 60_exceptions.md R116, R118; 70_reset_and_hazards.md R131,
R140) and the fetch of the next instruction (30_encoding.md R72; 20_memory.md R40, R43). -/

namespace Sys2Proof.Machine

/-- What a step does. -/
inductive Boundary where
  /-- the run has ended (R140) -/
  | ended
  /-- a reset is taken (R131) -/
  | reset
  /-- a hardware interrupt is taken (R116) -/
  | interrupt (src : IrqSource)
  /-- the next instruction executes -/
  | instruction
  deriving DecidableEq, Repr

/-- R116: a source whose request is active, and which is not maskable or finds I = 0, may be taken. -/
def enabled (ccr : Ccr) (src : IrqSource) : Bool := src.requested && (!src.maskable || !ccr.i)

/-- The sources that may be taken now. -/
def State.enabledSources (s : State) : List IrqSource := s.irq.filter (enabled s.ccr)

/-- The source taken now, if one is: a free choice among the enabled sources and none (R116, R118; log 20). -/
def State.chosenSource (s : State) : Option IrqSource := s.enabledSources[Config.interruptChoice s.draws]?

/-- R140 first, then a reset, which overrides everything else (R118), then a hardware interrupt. -/
def State.boundary (s : State) : Boundary :=
  if s.cfg.endAddr = some s.pc then .ended
  else if s.resetRequested then .reset
  else if s.enabledSources = [] then .instruction
  else
    match s.chosenSource with
    | some src => .interrupt src
    | none => .instruction

/-- The state after the choice: a choice is drawn only where some source is enabled. -/
def State.afterChoice (s : State) : State :=
  if s.enabledSources = [] then s else { s with draws := s.draws + 1 }

/-- Why the read of `n` bytes from an address on is refused, if it is. DESIGN CHOICE, safe (log 34): where several
bytes may not be read, the first of them in the order of the instruction is the one reported. -/
def fetchRefusal (s : State) (a : Word) : Nat → Option Refusal
  | 0 => none
  | n + 1 =>
    match fetchRefusal s a n with
    | some r => some r
    | none => readRefusal s (a + BitVec.ofNat 16 n)

/-- R72: the instruction at pc. Byte 0 is read first, and then the bytes that its format has, no other (log 29);
addresses wrap at the top of memory (R14). -/
def fetch (s : State) : Except Refusal Instr :=
  match readRefusal s s.pc with
  | some r => .error r
  | none =>
    match decode4 s.cfg.xbDecode (s.peek s.pc) (s.peek (s.pc + 1)) (s.peek (s.pc + 2)) (s.peek (s.pc + 3)) with
    | none => .error (.opcodeNotInSource (s.peek s.pc))
    | some i =>
      match fetchRefusal s s.pc i.length with
      | some r => .error r
      | none => .ok i

/-- The state with four bytes of an opcode-table word stored from pc on, in the table's bit numbering (log 27). -/
def State.placeWord (s : State) (nbits w : Nat) : State :=
  (((s.poke s.pc (tableByte nbits w 0)).poke (s.pc + 1) (tableByte nbits w 1)).poke
    (s.pc + 2) (tableByte nbits w 2)).poke (s.pc + 3) (tableByte nbits w 3)

end Sys2Proof.Machine
end

