-- ==== Sys2Proof/Machine/Operands.lean ====
section
/-! DEFINITION. The operand forms (spec 30_encoding.md R56 to R66): the effective address of a memory operand, the
update of an index register before and after the access, and the load and the store of the operand byte, in the order
of 20_memory.md R40. -/

namespace Sys2Proof.Machine

/-- The value of a base register. R66: PC as a base is the address after the instruction's last byte, `len` being the
instruction's length; UNVERIFIED (log 12). -/
def baseValue (s : State) (len : Nat) : Base → Word
  | .x => s.x
  | .y => s.y
  | .sp => s.sp
  | .pc => s.pc + BitVec.ofNat 16 len

/-- R61: A and B are unsigned offsets, D a 16-bit one. -/
def accOffset (s : State) : Acc → Word
  | .a => s.a.setWidth 16
  | .b => s.b.setWidth 16
  | .d => s.d

/-- R40 (2), R60: the base register is pre-modified if the sub-mode says so. -/
def preModify (m : MemOperand) (s : State) : State :=
  match m with
  | .auto r true delta => s.setIndex r (s.index r + BitVec.ofInt 16 delta)
  | _ => s

/-- R40 (5), R60: the base register is post-modified if the sub-mode says so. -/
def postModify (m : MemOperand) (s : State) : State :=
  match m with
  | .auto r false delta => s.setIndex r (s.index r + BitVec.ofInt 16 delta)
  | _ => s

/-- R64, R65: the address of the pointer of an indirect form. -/
def pointerAddress (m : MemOperand) (s : State) : Option Word :=
  match m with
  | .indD base => some (baseValue s m.length base + s.d)
  | .ind16 base off => some (baseValue s m.length base + off)
  | _ => none

/-- The effective address of a memory operand, in the state after `preModify` (R57 to R65). -/
def effectiveAddress (m : MemOperand) (s : State) : Word :=
  match m with
  | .dir dd => Word.ofBytes s.cfg.directBase dd
  | .ext hhll => hhll
  | .const5 base off => baseValue s m.length base + BitVec.ofInt 16 off
  | .auto r _ _ => s.index r
  | .accOff base acc => baseValue s m.length base + accOffset s acc
  | .const9 base off => baseValue s m.length base + BitVec.ofInt 16 off
  | .const16 base off => baseValue s m.length base + off
  | .indD base => s.peekWord (baseValue s m.length base + s.d)
  | .ind16 base off => s.peekWord (baseValue s m.length base + off)

/-- Why the read of an indirect form's pointer is refused, if it is (R40 (3), R36). -/
def pointerRefusal (m : MemOperand) (s : State) : Option Refusal :=
  match pointerAddress m s with
  | none => none
  | some p => readWordRefusal s p

/-- Why the operand byte cannot be read, if it cannot: its pointer first, as R40 orders the accesses (log 34). -/
def loadRefusal (m : MemOperand) (s : State) : Option Refusal :=
  match pointerRefusal m (preModify m s) with
  | some r => some r
  | none => readRefusal s (effectiveAddress m (preModify m s))

/-- Why the operand byte cannot be written, if it cannot: its pointer first, as R40 orders the accesses (log 34). -/
def storeRefusal (m : MemOperand) (s : State) : Option Refusal :=
  match pointerRefusal m (preModify m s) with
  | some r => some r
  | none => writeRefusal s (effectiveAddress m (preModify m s))

/-- The operand byte of a memory form, and the state with the index register updated (R40 (2) to (5)). -/
def loadOperand (m : MemOperand) (s : State) : Except Refusal (Byte × State) :=
  match loadRefusal m s with
  | some r => .error r
  | none =>
    let t := preModify m s
    .ok (t.peek (effectiveAddress m t), postModify m t)

/-- The state with a byte stored to a memory operand and the index register updated (R40 (2) to (5)). -/
def storeOperand (m : MemOperand) (v : Byte) (s : State) : Except Refusal State :=
  match storeRefusal m s with
  | some r => .error r
  | none =>
    let t := preModify m s
    .ok (postModify m (t.poke (effectiveAddress m t) v))

end Sys2Proof.Machine
end

