-- ==== Sys2Proof/Machine/Arithmetic.lean ====
section
/-! DEFINITION. ADDA, INCA, CLRB, DECB (spec 41_add_inc_dec_clr.md R90 to R95). -/

namespace Sys2Proof.Machine

/-- R90: A is replaced by the 8-bit sum of A and `v`, with the flags of the addition; the carry is not an input. -/
def addedA (v : Byte) (s : State) : State := (s.setA (addResult s.a v)).setCcr (addFlags s.a v s.ccr)

/-- R90 with the IMM form (R56). -/
def addImmA (ii : Byte) (s : State) : Result := .next ((addedA ii s).advance 2)

/-- R90 with a memory form. -/
def addA (m : MemOperand) (s : State) : Result :=
  match loadOperand m s with
  | .error r => .refused r
  | .ok (v, t) => .next ((addedA v t).advance m.length)

/-- ADDA IMM (R90, R56). -/
def execAddaImm (ii : Byte) (s : State) : Result := addImmA ii s

/-- ADDA, DIR: the low byte of the address (R57); R90. -/
def execAddaDir (dd : Byte) (s : State) : Result := addA (.dir dd) s

/-- ADDA, EXT: the 16-bit address `hh : ll` (R58); R90. -/
def execAddaExt (hhll : Word) (s : State) : Result := addA (.ext hhll) s

/-- ADDA, IDX, 5-bit signed constant offset (R59); R90. -/
def execAddaConst5 (base : Base) (off : Int) (s : State) : Result := addA (.const5 base off) s

/-- ADDA, IDX, auto pre/post increment/decrement of X (R60); R90. -/
def execAddaAutoX (pre : Bool) (delta : Int) (s : State) : Result := addA (.auto .x pre delta) s

/-- ADDA, IDX, auto pre/post increment/decrement of Y (R60); R90. -/
def execAddaAutoY (pre : Bool) (delta : Int) (s : State) : Result := addA (.auto .y pre delta) s

/-- ADDA, IDX, auto pre/post increment/decrement of SP (R60); R90. -/
def execAddaAutoSP (pre : Bool) (delta : Int) (s : State) : Result := addA (.auto .sp pre delta) s

/-- ADDA, IDX, accumulator A offset (R61); R90. -/
def execAddaAccA (base : Base) (s : State) : Result := addA (.accOff base .a) s

/-- ADDA, IDX, accumulator B offset (R61); R90. -/
def execAddaAccB (base : Base) (s : State) : Result := addA (.accOff base .b) s

/-- ADDA, IDX, accumulator D offset (R61); R90. -/
def execAddaAccD (base : Base) (s : State) : Result := addA (.accOff base .d) s

/-- ADDA, IDX1, 9-bit signed constant offset (R62); R90. -/
def execAddaConst9 (base : Base) (off : Int) (s : State) : Result := addA (.const9 base off) s

/-- ADDA, IDX2, 16-bit constant offset (R63); R90. -/
def execAddaConst16 (base : Base) (off : Word) (s : State) : Result := addA (.const16 base off) s

/-- ADDA, [D,IDX], accumulator D offset, indirect (R64); R90. -/
def execAddaIndD (base : Base) (s : State) : Result := addA (.indD base) s

/-- ADDA, [IDX2], 16-bit constant offset, indirect (R65); R90. -/
def execAddaInd16 (base : Base) (off : Word) (s : State) : Result := addA (.ind16 base off) s

/-- INCA (R91). -/
def execInca (s : State) : Result := .next (((s.setA (s.a + 1)).setCcr (incFlags s.a s.ccr)).advance 1)

/-- CLRB (R92). -/
def execClrb (s : State) : Result := .next (((s.setB 0).setCcr (clrFlags s.ccr)).advance 1)

/-- DECB (R93). -/
def execDecb (s : State) : Result := .next (((s.setB (s.b - 1)).setCcr (decFlags s.b s.ccr)).advance 1)

end Sys2Proof.Machine
end

