-- ==== Sys2Proof/Machine/LoadStore.lean ====
section
/-! DEFINITION. LDAA, STAA, STAB (spec 40_load_store.md R80 to R83). -/

namespace Sys2Proof.Machine

/-- R80: A is loaded with a byte, N and Z are set from it and V is cleared. -/
def loadedA (v : Byte) (s : State) : State := (s.setA v).setCcr (moveFlags v s.ccr)

/-- R80 with the IMM form (R56): no data memory is accessed. -/
def loadImmA (ii : Byte) (s : State) : Result := .next ((loadedA ii s).advance 2)

/-- R80 with a memory form. -/
def loadA (m : MemOperand) (s : State) : Result :=
  match loadOperand m s with
  | .error r => .refused r
  | .ok (v, t) => .next ((loadedA v t).advance m.length)

/-- R81, R82, R83: a byte is stored, N and Z are set from it and V is cleared. -/
def storeByte (v : Byte) (m : MemOperand) (s : State) : Result :=
  match storeOperand m v s with
  | .error r => .refused r
  | .ok t => .next ((t.setCcr (moveFlags v t.ccr)).advance m.length)

/-- R81. -/
def storeA (m : MemOperand) (s : State) : Result := storeByte s.a m s

/-- R82. -/
def storeB (m : MemOperand) (s : State) : Result := storeByte s.b m s

/-- LDAA IMM (R80, R56). -/
def execLdaaImm (ii : Byte) (s : State) : Result := loadImmA ii s

/-- LDAA, DIR: the low byte of the address (R57); R80. -/
def execLdaaDir (dd : Byte) (s : State) : Result := loadA (.dir dd) s

/-- LDAA, EXT: the 16-bit address `hh : ll` (R58); R80. -/
def execLdaaExt (hhll : Word) (s : State) : Result := loadA (.ext hhll) s

/-- LDAA, IDX, 5-bit signed constant offset (R59); R80. -/
def execLdaaConst5 (base : Base) (off : Int) (s : State) : Result := loadA (.const5 base off) s

/-- LDAA, IDX, auto pre/post increment/decrement of X (R60); R80. -/
def execLdaaAutoX (pre : Bool) (delta : Int) (s : State) : Result := loadA (.auto .x pre delta) s

/-- LDAA, IDX, auto pre/post increment/decrement of Y (R60); R80. -/
def execLdaaAutoY (pre : Bool) (delta : Int) (s : State) : Result := loadA (.auto .y pre delta) s

/-- LDAA, IDX, auto pre/post increment/decrement of SP (R60); R80. -/
def execLdaaAutoSP (pre : Bool) (delta : Int) (s : State) : Result := loadA (.auto .sp pre delta) s

/-- LDAA, IDX, accumulator A offset (R61); R80. -/
def execLdaaAccA (base : Base) (s : State) : Result := loadA (.accOff base .a) s

/-- LDAA, IDX, accumulator B offset (R61); R80. -/
def execLdaaAccB (base : Base) (s : State) : Result := loadA (.accOff base .b) s

/-- LDAA, IDX, accumulator D offset (R61); R80. -/
def execLdaaAccD (base : Base) (s : State) : Result := loadA (.accOff base .d) s

/-- LDAA, IDX1, 9-bit signed constant offset (R62); R80. -/
def execLdaaConst9 (base : Base) (off : Int) (s : State) : Result := loadA (.const9 base off) s

/-- LDAA, IDX2, 16-bit constant offset (R63); R80. -/
def execLdaaConst16 (base : Base) (off : Word) (s : State) : Result := loadA (.const16 base off) s

/-- LDAA, [D,IDX], accumulator D offset, indirect (R64); R80. -/
def execLdaaIndD (base : Base) (s : State) : Result := loadA (.indD base) s

/-- LDAA, [IDX2], 16-bit constant offset, indirect (R65); R80. -/
def execLdaaInd16 (base : Base) (off : Word) (s : State) : Result := loadA (.ind16 base off) s

/-- STAA, DIR: the low byte of the address (R57); R81. -/
def execStaaDir (dd : Byte) (s : State) : Result := storeA (.dir dd) s

/-- STAA, EXT: the 16-bit address `hh : ll` (R58); R81. -/
def execStaaExt (hhll : Word) (s : State) : Result := storeA (.ext hhll) s

/-- STAA, IDX, 5-bit signed constant offset (R59); R81. -/
def execStaaConst5 (base : Base) (off : Int) (s : State) : Result := storeA (.const5 base off) s

/-- STAA, IDX, auto pre/post increment/decrement of X (R60); R81. -/
def execStaaAutoX (pre : Bool) (delta : Int) (s : State) : Result := storeA (.auto .x pre delta) s

/-- STAA, IDX, auto pre/post increment/decrement of Y (R60); R81. -/
def execStaaAutoY (pre : Bool) (delta : Int) (s : State) : Result := storeA (.auto .y pre delta) s

/-- STAA, IDX, auto pre/post increment/decrement of SP (R60); R81. -/
def execStaaAutoSP (pre : Bool) (delta : Int) (s : State) : Result := storeA (.auto .sp pre delta) s

/-- STAA, IDX, accumulator A offset (R61); R81. -/
def execStaaAccA (base : Base) (s : State) : Result := storeA (.accOff base .a) s

/-- STAA, IDX, accumulator B offset (R61); R81. -/
def execStaaAccB (base : Base) (s : State) : Result := storeA (.accOff base .b) s

/-- STAA, IDX, accumulator D offset (R61); R81. -/
def execStaaAccD (base : Base) (s : State) : Result := storeA (.accOff base .d) s

/-- STAA, IDX1, 9-bit signed constant offset (R62); R81. -/
def execStaaConst9 (base : Base) (off : Int) (s : State) : Result := storeA (.const9 base off) s

/-- STAA, IDX2, 16-bit constant offset (R63); R81. -/
def execStaaConst16 (base : Base) (off : Word) (s : State) : Result := storeA (.const16 base off) s

/-- STAA, [D,IDX], accumulator D offset, indirect (R64); R81. -/
def execStaaIndD (base : Base) (s : State) : Result := storeA (.indD base) s

/-- STAA, [IDX2], 16-bit constant offset, indirect (R65); R81. -/
def execStaaInd16 (base : Base) (off : Word) (s : State) : Result := storeA (.ind16 base off) s

/-- STAB, DIR: the low byte of the address (R57); R82. -/
def execStabDir (dd : Byte) (s : State) : Result := storeB (.dir dd) s

/-- STAB, EXT: the 16-bit address `hh : ll` (R58); R82. -/
def execStabExt (hhll : Word) (s : State) : Result := storeB (.ext hhll) s

/-- STAB, IDX, 5-bit signed constant offset (R59); R82. -/
def execStabConst5 (base : Base) (off : Int) (s : State) : Result := storeB (.const5 base off) s

/-- STAB, IDX, auto pre/post increment/decrement of X (R60); R82. -/
def execStabAutoX (pre : Bool) (delta : Int) (s : State) : Result := storeB (.auto .x pre delta) s

/-- STAB, IDX, auto pre/post increment/decrement of Y (R60); R82. -/
def execStabAutoY (pre : Bool) (delta : Int) (s : State) : Result := storeB (.auto .y pre delta) s

/-- STAB, IDX, auto pre/post increment/decrement of SP (R60); R82. -/
def execStabAutoSP (pre : Bool) (delta : Int) (s : State) : Result := storeB (.auto .sp pre delta) s

/-- STAB, IDX, accumulator A offset (R61); R82. -/
def execStabAccA (base : Base) (s : State) : Result := storeB (.accOff base .a) s

/-- STAB, IDX, accumulator B offset (R61); R82. -/
def execStabAccB (base : Base) (s : State) : Result := storeB (.accOff base .b) s

/-- STAB, IDX, accumulator D offset (R61); R82. -/
def execStabAccD (base : Base) (s : State) : Result := storeB (.accOff base .d) s

/-- STAB, IDX1, 9-bit signed constant offset (R62); R82. -/
def execStabConst9 (base : Base) (off : Int) (s : State) : Result := storeB (.const9 base off) s

/-- STAB, IDX2, 16-bit constant offset (R63); R82. -/
def execStabConst16 (base : Base) (off : Word) (s : State) : Result := storeB (.const16 base off) s

/-- STAB, [D,IDX], accumulator D offset, indirect (R64); R82. -/
def execStabIndD (base : Base) (s : State) : Result := storeB (.indD base) s

/-- STAB, [IDX2], 16-bit constant offset, indirect (R65); R82. -/
def execStabInd16 (base : Base) (off : Word) (s : State) : Result := storeB (.ind16 base off) s

end Sys2Proof.Machine
end

