-- ==== Sys2Proof/Machine/Shift.lean ====
section
/-! DEFINITION. LSRA, ASRA (spec 42_shift.md R100 to R102). -/

namespace Sys2Proof.Machine

/-- LSRA (R100). -/
def execLsra (s : State) : Result := .next (((s.setA (lsrResult s.a)).setCcr (lsrFlags s.a s.ccr)).advance 1)

/-- ASRA (R101). -/
def execAsra (s : State) : Result := .next (((s.setA (asrResult s.a)).setCcr (asrFlags s.a s.ccr)).advance 1)

end Sys2Proof.Machine
end

