-- ==== Sys2Proof/Machine/SoftwareInterrupt.lean ====
section
/-! DEFINITION. SWI (spec 43_swi.md R105, R106). -/

namespace Sys2Proof.Machine

/-- SWI (R105): the exception entry with the address of the next instruction as return address, whatever I holds. -/
def execSwi (s : State) : Result := outcomeOf (exceptionEntry (s.pc + 1) s.cfg.swiVector s)

end Sys2Proof.Machine
end

