-- ==== Sys2Proof/Machine/Dispatch.lean ====
section
/-! DEFINITION. The one map from an instruction to its meaning: an arm per constructor of `Instr`. -/

namespace Sys2Proof.Machine

def exec (i : Instr) (s : State) : Host.Outcome State Fault Refusal :=
  match i with
  | .ldaaImm ii => Sys2Proof.Machine.execLdaaImm ii s
  | .ldaaDir dd => Sys2Proof.Machine.execLdaaDir dd s
  | .ldaaExt hhll => Sys2Proof.Machine.execLdaaExt hhll s
  | .ldaaConst5 base off => Sys2Proof.Machine.execLdaaConst5 base off s
  | .ldaaAutoX pre delta => Sys2Proof.Machine.execLdaaAutoX pre delta s
  | .ldaaAutoY pre delta => Sys2Proof.Machine.execLdaaAutoY pre delta s
  | .ldaaAutoSP pre delta => Sys2Proof.Machine.execLdaaAutoSP pre delta s
  | .ldaaAccA base => Sys2Proof.Machine.execLdaaAccA base s
  | .ldaaAccB base => Sys2Proof.Machine.execLdaaAccB base s
  | .ldaaAccD base => Sys2Proof.Machine.execLdaaAccD base s
  | .ldaaConst9 base off => Sys2Proof.Machine.execLdaaConst9 base off s
  | .ldaaConst16 base off => Sys2Proof.Machine.execLdaaConst16 base off s
  | .ldaaIndD base => Sys2Proof.Machine.execLdaaIndD base s
  | .ldaaInd16 base off => Sys2Proof.Machine.execLdaaInd16 base off s
  | .addaImm ii => Sys2Proof.Machine.execAddaImm ii s
  | .addaDir dd => Sys2Proof.Machine.execAddaDir dd s
  | .addaExt hhll => Sys2Proof.Machine.execAddaExt hhll s
  | .addaConst5 base off => Sys2Proof.Machine.execAddaConst5 base off s
  | .addaAutoX pre delta => Sys2Proof.Machine.execAddaAutoX pre delta s
  | .addaAutoY pre delta => Sys2Proof.Machine.execAddaAutoY pre delta s
  | .addaAutoSP pre delta => Sys2Proof.Machine.execAddaAutoSP pre delta s
  | .addaAccA base => Sys2Proof.Machine.execAddaAccA base s
  | .addaAccB base => Sys2Proof.Machine.execAddaAccB base s
  | .addaAccD base => Sys2Proof.Machine.execAddaAccD base s
  | .addaConst9 base off => Sys2Proof.Machine.execAddaConst9 base off s
  | .addaConst16 base off => Sys2Proof.Machine.execAddaConst16 base off s
  | .addaIndD base => Sys2Proof.Machine.execAddaIndD base s
  | .addaInd16 base off => Sys2Proof.Machine.execAddaInd16 base off s
  | .staaDir dd => Sys2Proof.Machine.execStaaDir dd s
  | .staaExt hhll => Sys2Proof.Machine.execStaaExt hhll s
  | .staaConst5 base off => Sys2Proof.Machine.execStaaConst5 base off s
  | .staaAutoX pre delta => Sys2Proof.Machine.execStaaAutoX pre delta s
  | .staaAutoY pre delta => Sys2Proof.Machine.execStaaAutoY pre delta s
  | .staaAutoSP pre delta => Sys2Proof.Machine.execStaaAutoSP pre delta s
  | .staaAccA base => Sys2Proof.Machine.execStaaAccA base s
  | .staaAccB base => Sys2Proof.Machine.execStaaAccB base s
  | .staaAccD base => Sys2Proof.Machine.execStaaAccD base s
  | .staaConst9 base off => Sys2Proof.Machine.execStaaConst9 base off s
  | .staaConst16 base off => Sys2Proof.Machine.execStaaConst16 base off s
  | .staaIndD base => Sys2Proof.Machine.execStaaIndD base s
  | .staaInd16 base off => Sys2Proof.Machine.execStaaInd16 base off s
  | .stabDir dd => Sys2Proof.Machine.execStabDir dd s
  | .stabExt hhll => Sys2Proof.Machine.execStabExt hhll s
  | .stabConst5 base off => Sys2Proof.Machine.execStabConst5 base off s
  | .stabAutoX pre delta => Sys2Proof.Machine.execStabAutoX pre delta s
  | .stabAutoY pre delta => Sys2Proof.Machine.execStabAutoY pre delta s
  | .stabAutoSP pre delta => Sys2Proof.Machine.execStabAutoSP pre delta s
  | .stabAccA base => Sys2Proof.Machine.execStabAccA base s
  | .stabAccB base => Sys2Proof.Machine.execStabAccB base s
  | .stabAccD base => Sys2Proof.Machine.execStabAccD base s
  | .stabConst9 base off => Sys2Proof.Machine.execStabConst9 base off s
  | .stabConst16 base off => Sys2Proof.Machine.execStabConst16 base off s
  | .stabIndD base => Sys2Proof.Machine.execStabIndD base s
  | .stabInd16 base off => Sys2Proof.Machine.execStabInd16 base off s
  | .inca => Sys2Proof.Machine.execInca s
  | .clrb => Sys2Proof.Machine.execClrb s
  | .decb => Sys2Proof.Machine.execDecb s
  | .lsra => Sys2Proof.Machine.execLsra s
  | .asra => Sys2Proof.Machine.execAsra s
  | .swi => Sys2Proof.Machine.execSwi s

end Sys2Proof.Machine
end

