-- ==== Sys2Proof/Machine/Step.lean ====
section
/-! DEFINITION. One step of the machine: one instruction, or one exception entry between two instructions. -/

namespace Sys2Proof.Machine

/-- The next instruction is fetched and executed (spec 30_encoding.md R72). -/
def runInstruction (s : State) : Result :=
  match fetch s with
  | .error r => .refused r
  | .ok i => exec i s

/-- One step (R116, R131, R140). -/
def step (s : State) : Host.Outcome State Fault Refusal :=
  match s.boundary with
  | .ended => .fault .endOfRun
  | .reset => outcomeOf (resetEntry s)
  | .interrupt src => outcomeOf (interruptEntry src s.afterChoice)
  | .instruction => runInstruction s.afterChoice

/-- The state with the instruction whose table bits are `w` stored where `step` fetches next (log 27). -/
def State.withFetchWord (s : State) (nbits w : Nat) : State := s.placeWord nbits w

end Sys2Proof.Machine
end

