-- ==== Sys2Proof/Machine/Timing.lean ====
section
/-! DEFINITION. The Access Detail strings (spec 70_reset_and_hazards.md R136 to R139) as data beside the machine: no
step reads them (R136, log 23). -/

namespace Sys2Proof.Machine

/-- R138: the letters of the strings, one bus cycle each. UNVERIFIED (log 23): their meaning is the spec's general
knowledge. -/
inductive BusCycle where
  /-- program word fetch -/
  | P
  /-- optional cycle: a program word fetch or a free cycle -/
  | O
  /-- free cycle -/
  | f
  /-- 8-bit data read -/
  | r
  /-- 8-bit data write -/
  | w
  /-- 16-bit read of an indirect pointer -/
  | I
  /-- 16-bit read of a vector -/
  | V
  /-- 16-bit stack write -/
  | S
  /-- 8-bit stack write -/
  | s
  deriving DecidableEq, Repr

/-- The rows of R137's table that a memory operand falls into. -/
inductive TimingMode where
  | dir
  | ext
  | idx
  | idx1
  | idx2
  | indD
  | indIdx2
  deriving DecidableEq, Repr

/-- R51: the mode a row of R137 is headed with. -/
def MemOperand.timingMode : MemOperand → TimingMode
  | .dir _ => .dir
  | .ext _ => .ext
  | .const5 _ _ => .idx
  | .auto _ _ _ => .idx
  | .accOff _ _ => .idx
  | .const9 _ _ => .idx1
  | .const16 _ _ => .idx2
  | .indD _ => .indD
  | .ind16 _ _ => .indIdx2

/-- R137, LDAA and ADDA with a memory operand. -/
def loadCycles : Variant → TimingMode → List BusCycle
  | .hcs12, .dir => [.r, .P, .f]
  | .hcs12, .ext => [.r, .P, .O]
  | .hcs12, .idx => [.r, .P, .f]
  | .hcs12, .idx1 => [.r, .P, .O]
  | .hcs12, .idx2 => [.f, .r, .P, .P]
  | .hcs12, .indD => [.f, .I, .f, .r, .P, .f]
  | .hcs12, .indIdx2 => [.f, .I, .P, .r, .P, .f]
  | .m68hc12, .dir => [.r, .f, .P]
  | .m68hc12, .ext => [.r, .O, .P]
  | .m68hc12, .idx => [.r, .f, .P]
  | .m68hc12, .idx1 => [.r, .P, .O]
  | .m68hc12, .idx2 => [.f, .r, .P, .P]
  | .m68hc12, .indD => [.f, .I, .f, .r, .f, .P]
  | .m68hc12, .indIdx2 => [.f, .I, .P, .r, .f, .P]

/-- R137, STAA and STAB. -/
def storeCycles : Variant → TimingMode → List BusCycle
  | .hcs12, .dir => [.P, .w]
  | .hcs12, .ext => [.P, .w, .O]
  | .hcs12, .idx => [.P, .w]
  | .hcs12, .idx1 => [.P, .w, .O]
  | .hcs12, .idx2 => [.P, .w, .P]
  | .hcs12, .indD => [.P, .I, .f, .w]
  | .hcs12, .indIdx2 => [.P, .I, .P, .w]
  | .m68hc12, .dir => [.P, .w]
  | .m68hc12, .ext => [.w, .O, .P]
  | .m68hc12, .idx => [.P, .w]
  | .m68hc12, .idx1 => [.P, .w, .O]
  | .m68hc12, .idx2 => [.P, .w, .P]
  | .m68hc12, .indD => [.P, .I, .f, .P, .w]
  | .m68hc12, .indIdx2 => [.P, .I, .P, .P, .w]

/-- R137: SWI, and by footnote 1 of its page a hardware interrupt and an unimplemented-opcode trap. -/
def entryCycles : List BusCycle := [.V, .S, .P, .S, .S, .P, .S, .s, .P]

/-- R130, R137: reset. -/
def resetCycles : List BusCycle := [.V, .f, .P, .P, .P]

/-- R137: the Access Detail string of an instruction. -/
def accessDetail (v : Variant) (i : Instr) : List BusCycle :=
  match i.form with
  | .inh .swi => entryCycles
  | .inh _ => [.O]
  | .imm _ _ => [.P]
  | .mem .ldaa m => loadCycles v (MemOperand.timingMode m)
  | .mem .adda m => loadCycles v (MemOperand.timingMode m)
  | .mem .staa m => storeCycles v (MemOperand.timingMode m)
  | .mem .stab m => storeCycles v (MemOperand.timingMode m)

/-- R137: the number of bus cycles. -/
def cycleCount (v : Variant) (i : Instr) : Nat := (accessDetail v i).length

end Sys2Proof.Machine
end

