-- ==== Sys2Proof/Safety.lean ====
section
/-! DEFINITION. The terms claims are stated in: the invariant of a state, the premises of the spec about a run
(60_exceptions.md R116, 70_reset_and_hazards.md R131, R140), and a run that neither stops nor is refused. -/

namespace Sys2Proof.Machine

/-- What every state that a run reaches keeps: memory is in its canonical form. -/
def State.Inv (s : State) : Prop := s.mem.wf

/-- The premises every claim about an instruction rests on: the run has not ended (R140), no reset is requested (R131),
no hardware interrupt may be taken (R116). -/
structure State.Undisturbed (s : State) : Prop where
  notEnded : s.cfg.endAddr ≠ some s.pc
  noReset  : s.resetRequested = false
  noSource : s.enabledSources = []

/-- The four bytes from pc on, addresses modulo 65536 (R14): no instruction is longer (R50). -/
def State.bytesAtPc (s : State) : List Byte :=
  [s.peek s.pc, s.peek (s.pc + 1), s.peek (s.pc + 2), s.peek (s.pc + 3)]

/-- `MEM_MAP` admits a read of the byte: it is plain or read-only memory (R36). -/
def State.Readable (s : State) (a : Word) : Prop := s.kindAt a = .plain ∨ s.kindAt a = .readOnly

/-- A store of the byte is admitted: it is plain memory (R36) and no byte of the program (R43). -/
def State.Writable (s : State) (a : Word) : Prop := s.kindAt a = .plain ∧ inCode s.cfg.codeRegion a = false

/-- Every byte of an instruction of `n` bytes at pc may be fetched. -/
def State.Fetchable (s : State) (n : Nat) : Prop := ∀ k, k < n → s.Readable (s.pc + BitVec.ofNat 16 k)

/-- The pointer of an indirect form may be read; no other form has one (R64, R65). -/
def State.PointerReadable (s : State) (m : MemOperand) : Prop :=
  ∀ p, pointerAddress m (preModify m s) = some p → s.Readable p ∧ s.Readable (p + 1)

/-- The operand byte of a memory form may be read. -/
def State.CanLoad (s : State) (m : MemOperand) : Prop :=
  s.PointerReadable m ∧ s.Readable (effectiveAddress m (preModify m s))

/-- The operand byte of a memory form may be written. -/
def State.CanStore (s : State) (m : MemOperand) : Prop :=
  s.PointerReadable m ∧ s.Writable (effectiveAddress m (preModify m s))

/-- An exception entry through the vector at `vec` is admitted: the nine bytes below SP may be written, the vector may be
read, and neither byte of it is in the frame (R106, R112). -/
structure State.CanEnter (s : State) (vec : Word) : Prop where
  frameWritable : ∀ a ∈ frameAddresses s.sp, s.Writable a
  vectorReadable : s.Readable vec ∧ s.Readable (vec + 1)
  disjoint : vec ∉ frameAddresses s.sp ∧ vec + 1 ∉ frameAddresses s.sp

/-- The index register that the form steps, if it does (R60). -/
def autoReg : Form → Option IndexReg
  | .inh _ => none
  | .imm _ _ => none
  | .mem _ (.auto r _ _) => some r
  | .mem _ _ => none

/-! The writers of 10_state.md R22: which forms write A, B, H, I, C, N Z and V, and memory. -/

def writesA : Form → Bool
  | .inh .inca | .inh .lsra | .inh .asra => true
  | .inh .clrb | .inh .decb | .inh .swi => false
  | .imm _ _ => true
  | .mem .ldaa _ | .mem .adda _ => true
  | .mem .staa _ | .mem .stab _ => false

def writesB : Form → Bool
  | .inh .clrb | .inh .decb => true
  | .inh .inca | .inh .lsra | .inh .asra | .inh .swi => false
  | .imm _ _ => false
  | .mem _ _ => false

def writesH : Form → Bool
  | .inh _ => false
  | .imm .adda _ | .mem .adda _ => true
  | .imm .ldaa _ | .mem .ldaa _ | .mem .staa _ | .mem .stab _ => false

def writesC : Form → Bool
  | .inh .lsra | .inh .asra | .inh .clrb => true
  | .inh .inca | .inh .decb | .inh .swi => false
  | .imm .adda _ | .mem .adda _ => true
  | .imm .ldaa _ | .mem .ldaa _ | .mem .staa _ | .mem .stab _ => false

def writesMemory : Form → Bool
  | .inh .swi => true
  | .inh .inca | .inh .clrb | .inh .decb | .inh .lsra | .inh .asra => false
  | .imm _ _ => false
  | .mem .staa _ | .mem .stab _ => true
  | .mem .ldaa _ | .mem .adda _ => false

/-- A run of `n` steps that reaches a next state at each of them. -/
def SafeRun : Nat → State → Prop
  | 0, _ => True
  | n + 1, s => ∃ t, step s = .next t ∧ SafeRun n t

end Sys2Proof.Machine
end

