-- ==== Sys2Proof/Certificates/Slice0/Obligations.lean ====
section
/-! DEFINITION. The statements for the provers. Every statement is over all states, so over all memories, registers and
launch parameters; a premise that only a run guarantees is the invariant `State.Inv`, stated on its own. What a
statement takes from the spec's own general knowledge, decisions or derivations is said in its docstring. -/

open Sys2Proof Sys2Proof.Machine

namespace Sys2Proof.Statements

/-- R80, R81, R82, R90, "Encoding": DIR, EXT and the indexed rows of a mnemonic with their bytes after the opcode. -/
def ObjectCode (i : MemOperand → Instr) (dir ext idx : Byte) : Prop :=
  (∀ dd, encode (i (.dir dd)) = [dir, dd]) ∧
  (∀ hhll, encode (i (.ext hhll)) = [ext, hhll.hi, hhll.lo]) ∧
  (∀ base off, ∃ xb, encode (i (.const5 base off)) = [idx, xb]) ∧
  (∀ r pre delta, ∃ xb, encode (i (.auto r pre delta)) = [idx, xb]) ∧
  (∀ base acc, ∃ xb, encode (i (.accOff base acc)) = [idx, xb]) ∧
  (∀ base off, ∃ xb ff, encode (i (.const9 base off)) = [idx, xb, ff]) ∧
  (∀ base off, ∃ xb, encode (i (.const16 base off)) = [idx, xb, off.hi, off.lo]) ∧
  (∀ base, ∃ xb, encode (i (.indD base)) = [idx, xb]) ∧
  (∀ base off, ∃ xb, encode (i (.ind16 base off)) = [idx, xb, off.hi, off.lo])

/-- R80, R90: the two Access Detail columns of the memory rows of LDAA and ADDA. -/
def loadStrings : Variant → MemOperand → List BusCycle
  | .hcs12, .dir _ => [.r, .P, .f]
  | .hcs12, .ext _ => [.r, .P, .O]
  | .hcs12, .const5 _ _ => [.r, .P, .f]
  | .hcs12, .auto _ _ _ => [.r, .P, .f]
  | .hcs12, .accOff _ _ => [.r, .P, .f]
  | .hcs12, .const9 _ _ => [.r, .P, .O]
  | .hcs12, .const16 _ _ => [.f, .r, .P, .P]
  | .hcs12, .indD _ => [.f, .I, .f, .r, .P, .f]
  | .hcs12, .ind16 _ _ => [.f, .I, .P, .r, .P, .f]
  | .m68hc12, .dir _ => [.r, .f, .P]
  | .m68hc12, .ext _ => [.r, .O, .P]
  | .m68hc12, .const5 _ _ => [.r, .f, .P]
  | .m68hc12, .auto _ _ _ => [.r, .f, .P]
  | .m68hc12, .accOff _ _ => [.r, .f, .P]
  | .m68hc12, .const9 _ _ => [.r, .P, .O]
  | .m68hc12, .const16 _ _ => [.f, .r, .P, .P]
  | .m68hc12, .indD _ => [.f, .I, .f, .r, .f, .P]
  | .m68hc12, .ind16 _ _ => [.f, .I, .P, .r, .f, .P]

/-- R81, R82: the two Access Detail columns of STAA and STAB. -/
def storeStrings : Variant → MemOperand → List BusCycle
  | .hcs12, .dir _ => [.P, .w]
  | .hcs12, .ext _ => [.P, .w, .O]
  | .hcs12, .const5 _ _ => [.P, .w]
  | .hcs12, .auto _ _ _ => [.P, .w]
  | .hcs12, .accOff _ _ => [.P, .w]
  | .hcs12, .const9 _ _ => [.P, .w, .O]
  | .hcs12, .const16 _ _ => [.P, .w, .P]
  | .hcs12, .indD _ => [.P, .I, .f, .w]
  | .hcs12, .ind16 _ _ => [.P, .I, .P, .w]
  | .m68hc12, .dir _ => [.P, .w]
  | .m68hc12, .ext _ => [.w, .O, .P]
  | .m68hc12, .const5 _ _ => [.P, .w]
  | .m68hc12, .auto _ _ _ => [.P, .w]
  | .m68hc12, .accOff _ _ => [.P, .w]
  | .m68hc12, .const9 _ _ => [.P, .w, .O]
  | .m68hc12, .const16 _ _ => [.P, .w, .P]
  | .m68hc12, .indD _ => [.P, .I, .f, .P, .w]
  | .m68hc12, .ind16 _ _ => [.P, .I, .P, .P, .w]

/-- The flags of R80, R81 and R82 for the byte moved: N its bit 7, Z set if it is `$00`, V cleared, the others kept. -/
def movedFlags (v : Byte) (f : Ccr) : Ccr := { f with n := v.getLsbD 7, z := decide (v = 0), v := false }

/-- The flags of R90 for the operands `a` and `m`, S, X and I kept. -/
def sumFlags (a m : Byte) (f : Ccr) : Ccr :=
  let res : Byte := BitVec.ofNat 8 ((a.toNat + m.toNat) % 256)
  { f with
    h := decide (a.toNat % 16 + m.toNat % 16 ≥ 16)
    n := res.getLsbD 7
    z := decide (res = 0)
    v := decide (a.getLsbD 7 = m.getLsbD 7 ∧ res.getLsbD 7 ≠ a.getLsbD 7)
    c := decide (a.toNat + m.toNat ≥ 256) }

/-- R95: the Boolean formulas of H, V and C for the operands `a` and `m` and the result `r`. -/
def SumFormulas (a m r : Byte) (f : Ccr) : Prop :=
  f.h = ((a.getLsbD 3 && m.getLsbD 3) || (m.getLsbD 3 && !r.getLsbD 3) || (!r.getLsbD 3 && a.getLsbD 3)) ∧
  f.v = ((a.getLsbD 7 && m.getLsbD 7 && !r.getLsbD 7) || (!a.getLsbD 7 && !m.getLsbD 7 && r.getLsbD 7)) ∧
  f.c = ((a.getLsbD 7 && m.getLsbD 7) || (m.getLsbD 7 && !r.getLsbD 7) || (!r.getLsbD 7 && a.getLsbD 7))

/-- R94: the result `r` of adding `a` and `m`, and C, V and N against the true sums. -/
def TrueSum (a m r : Byte) (f : Ccr) : Prop :=
  r.toNat = (a.toNat + m.toNat) % 256 ∧ (f.c = true ↔ 255 < a.toNat + m.toNat) ∧
  (f.v = true ↔ a.toInt + m.toInt < -128 ∨ 127 < a.toInt + m.toInt) ∧ (f.n = true ↔ r.toInt < 0)

/-- R35, R36: `MEM_MAP` forbids a read at `a`, and `r` is the refusal that says why. -/
def ReadForbidden (s : State) (a : Word) (r : Refusal) : Prop :=
  (s.kindAt a = .absent ∧ r = .absentAddress a) ∨ (s.kindAt a = .device ∧ r = .deviceAddress a)

/-- R35, R36, R43: a write at `a` is forbidden, and `r` is the refusal that says why, `MEM_MAP`'s reason before
`CODE_REGION`'s (log 34). -/
def WriteForbidden (s : State) (a : Word) (r : Refusal) : Prop :=
  ReadForbidden s a r ∨ (s.kindAt a = .readOnly ∧ r = .readOnlyAddress a) ∨
  (s.kindAt a = .plain ∧ inCode s.cfg.codeRegion a = true ∧ r = .storeIntoCode a)

/-- The same for the two bytes of a 16-bit read at `a`, the lower address first (R31, R35; log 34). -/
def WordReadForbidden (s : State) (a : Word) (r : Refusal) : Prop :=
  ReadForbidden s a r ∨ (s.Readable a ∧ ReadForbidden s (a + 1) r)

/-- Every entry through the vector at `vec` is refused with `r`: the shared sequence of R112 with any return address, an SWI
whose vector it is, and a step that takes a hardware interrupt whose vector it is. -/
def EntryRefused (vec : Word) (s : State) (r : Refusal) : Prop :=
  (∀ ret, exceptionEntry ret vec s = .error r) ∧ (vec = s.cfg.swiVector → exec .swi s = .refused r) ∧
  (∀ src, s.boundary = .interrupt src → src.vector = vec → step s = .refused r)

/-- What no instruction but through its own effect may touch: the interrupt requests, the parameters, the model's own two
fields. -/
def SameOutside (s t : State) : Prop :=
  t.irq = s.irq ∧ t.cfg = s.cfg ∧ t.resetRequested = s.resetRequested ∧ t.draws = s.draws

/-- Every index register is as before, but for the one that the form steps (R60). -/
def SameIndexBut (f : Form) (s t : State) : Prop := ∀ r, autoReg f ≠ some r → t.index r = s.index r

/-- The nine bytes of R113 stacked from SP = `s.sp` down, with the return address `ret`. -/
def FrameStacked (ret : Word) (s t : State) : Prop :=
  t.peek (s.sp - 9) = s.ccr.toByte ∧ t.peek (s.sp - 8) = s.b ∧ t.peek (s.sp - 7) = s.a ∧
  t.peek (s.sp - 6) = s.x.hi ∧ t.peek (s.sp - 5) = s.x.lo ∧ t.peek (s.sp - 4) = s.y.hi ∧
  t.peek (s.sp - 3) = s.y.lo ∧ t.peek (s.sp - 2) = ret.hi ∧ t.peek (s.sp - 1) = ret.lo

/-- The state after R112's entry sequence: the frame stacked and no other byte changed, SP lower by nine, I set, pc from
the vector, A, B, X, Y and the other flags as before. -/
def Entered (ret vec : Word) (s t : State) : Prop :=
  FrameStacked ret s t ∧ (∀ a, a ∉ frameAddresses s.sp → t.peek a = s.peek a) ∧ t.sp = s.sp - 9 ∧
  t.ccr = { s.ccr with i := true } ∧ t.pc = Word.ofBytes (s.peek vec) (s.peek (vec + 1)) ∧
  t.a = s.a ∧ t.b = s.b ∧ t.x = s.x ∧ t.y = s.y

/-- The state with another variant. -/
def withVariant (v : Variant) (s : State) : State := { s with cfg := { s.cfg with variant := v } }

end Sys2Proof.Statements

open Sys2Proof.Statements

/-! ## Encoding -/

/-- For every instruction that has an encoding, decoding its bytes gives it back and leaves the bytes after it: all sixty
constructors, every operand value, under the default `XB_DECODE`. The postbyte layout is the spec's own general knowledge (R55, log 11). -/
def Obligations.DecodeOfEncodeIsTheInstruction : Prop :=
  ∀ (i : Instr) (rest : List Byte), i.WellFormed → decode defaultXB (encode i ++ rest) = .instruction i rest

/-- Under the default `XB_DECODE`, bytes that decode have no second reading: the instruction read has an encoding, and it is those bytes (log 11). -/
def Obligations.EncodeOfDecodeIsTheBytes : Prop :=
  ∀ (bytes rest : List Byte) (i : Instr), decode defaultXB bytes = .instruction i rest → i.WellFormed ∧ encode i ++ rest = bytes

/-- R53: the twenty opcode bytes, each with its mnemonic, mode and length, and no other. The postbyte of an indexed row and
what follows it are left to `XB_DECODE`, whatever it is. -/
def Obligations.OpcodeMapHasTheTwentyBytes : Prop :=
  (∀ (t : XbTable) (b1 b2 b3 : Byte),
    decodeForm t 0x3F b1 b2 b3 = some (.inh .swi) ∧ decodeForm t 0x42 b1 b2 b3 = some (.inh .inca) ∧
    decodeForm t 0x44 b1 b2 b3 = some (.inh .lsra) ∧ decodeForm t 0x47 b1 b2 b3 = some (.inh .asra) ∧
    decodeForm t 0x53 b1 b2 b3 = some (.inh .decb) ∧ decodeForm t 0xC7 b1 b2 b3 = some (.inh .clrb) ∧
    decodeForm t 0x86 b1 b2 b3 = some (.imm .ldaa b1) ∧ decodeForm t 0x8B b1 b2 b3 = some (.imm .adda b1) ∧
    decodeForm t 0x5A b1 b2 b3 = some (.mem .staa (.dir b1)) ∧ decodeForm t 0x5B b1 b2 b3 = some (.mem .stab (.dir b1)) ∧
    decodeForm t 0x96 b1 b2 b3 = some (.mem .ldaa (.dir b1)) ∧ decodeForm t 0x9B b1 b2 b3 = some (.mem .adda (.dir b1)) ∧
    decodeForm t 0x7A b1 b2 b3 = some (.mem .staa (.ext (b1 ++ b2))) ∧
    decodeForm t 0x7B b1 b2 b3 = some (.mem .stab (.ext (b1 ++ b2))) ∧
    decodeForm t 0xB6 b1 b2 b3 = some (.mem .ldaa (.ext (b1 ++ b2))) ∧
    decodeForm t 0xBB b1 b2 b3 = some (.mem .adda (.ext (b1 ++ b2))) ∧
    decodeForm t 0x6A b1 b2 b3 = some (.mem .staa (indexedOperand (submodeOf t b1) b2 b3)) ∧
    decodeForm t 0x6B b1 b2 b3 = some (.mem .stab (indexedOperand (submodeOf t b1) b2 b3)) ∧
    decodeForm t 0xA6 b1 b2 b3 = some (.mem .ldaa (indexedOperand (submodeOf t b1) b2 b3)) ∧
    decodeForm t 0xAB b1 b2 b3 = some (.mem .adda (indexedOperand (submodeOf t b1) b2 b3))) ∧
  (∀ op, (Form.inh op).length = 1) ∧ (∀ op ii, (Form.imm op ii).length = 2) ∧
  (∀ op dd, (Form.mem op (.dir dd)).length = 2) ∧ (∀ op hhll, (Form.mem op (.ext hhll)).length = 3) ∧
  (∀ op base off, (Form.mem op (.const5 base off)).length = 2) ∧
  (∀ op r pre delta, (Form.mem op (.auto r pre delta)).length = 2) ∧
  (∀ op base acc, (Form.mem op (.accOff base acc)).length = 2) ∧
  (∀ op base off, (Form.mem op (.const9 base off)).length = 3) ∧
  (∀ op base off, (Form.mem op (.const16 base off)).length = 4) ∧
  (∀ op base, (Form.mem op (.indD base)).length = 2) ∧
  (∀ op base off, (Form.mem op (.ind16 base off)).length = 4) ∧
  (∀ (t : XbTable) (b0 b1 b2 b3 : Byte),
    b0 ∉ ([0x3F, 0x42, 0x44, 0x47, 0x53, 0x5A, 0x5B, 0x6A, 0x6B, 0x7A] : List Byte) →
    b0 ∉ ([0x7B, 0x86, 0x8B, 0x96, 0x9B, 0xA6, 0xAB, 0xB6, 0xBB, 0xC7] : List Byte) →
    decodeForm t b0 b1 b2 b3 = none)

/-- Under the default `XB_DECODE`, every postbyte has the sub-mode of R55's table, row by row (the spec's own general knowledge, log 11). -/
def Obligations.PostbytesSelectTheirSubmodes : Prop :=
  Base.x.field = 0 ∧ Base.y.field = 1 ∧ Base.sp.field = 2 ∧ Base.pc.field = 3 ∧
  IndexReg.x.field = 0 ∧ IndexReg.y.field = 1 ∧ IndexReg.sp.field = 2 ∧
  (∀ (r : Base) (n : BitVec 5), decodeXB (r.field ++ 0#1 ++ n) = .const5 r n.toInt) ∧
  (∀ (r : IndexReg) (p : Bool) (n : BitVec 4),
    decodeXB (r.field ++ 1#1 ++ BitVec.ofBool p ++ n) =
      .auto r (!p) (if n.toNat < 8 then (n.toNat : Int) + 1 else (n.toNat : Int) - 16)) ∧
  (∀ (r : Base) (s : Bool), decodeXB (7#3 ++ r.field ++ 0#2 ++ BitVec.ofBool s) = .const9 r s) ∧
  (∀ r : Base, decodeXB (7#3 ++ r.field ++ 2#3) = .const16 r) ∧
  (∀ r : Base, decodeXB (7#3 ++ r.field ++ 3#3) = .ind16 r) ∧
  (∀ r : Base, decodeXB (7#3 ++ r.field ++ 4#3) = .accOff r .a) ∧
  (∀ r : Base, decodeXB (7#3 ++ r.field ++ 5#3) = .accOff r .b) ∧
  (∀ r : Base, decodeXB (7#3 ++ r.field ++ 6#3) = .accOff r .d) ∧
  (∀ r : Base, decodeXB (7#3 ++ r.field ++ 7#3) = .indD r)

/-- R5: `XB_DECODE` may be any function from postbytes to sub-modes, since every one is a table of State's, and its
default is the function of R55 (the form of the table is the model's choice, log 11). -/
def Obligations.EveryPostbyteFunctionIsATable : Prop :=
  (∀ f : Byte → Submode, ∃ t : XbTable, ∀ xb, submodeOf t xb = f xb) ∧
  State.reset.cfg.xbDecode = defaultXB ∧ ∀ xb, submodeOf defaultXB xb = decodeXB xb

/-- The spec's own example encodings (R59, R60, R62 to R65, R80 to R82, R90 to R93, R100, R101, R105). -/
def Obligations.ExampleWordsDecode : Prop :=
  decode defaultXB [0xB6, 0x10, 0x00] = .instruction (.ldaaExt 0x1000) [] ∧
  decode defaultXB [0x5A, 0x40] = .instruction (.staaDir 0x40) [] ∧
  decode defaultXB [0x7B, 0x20, 0x00] = .instruction (.stabExt 0x2000) [] ∧
  decode defaultXB [0x8B, 0x5C] = .instruction (.addaImm 0x5C) [] ∧
  decode defaultXB [0x42] = .instruction .inca [] ∧
  decode defaultXB [0xC7] = .instruction .clrb [] ∧
  decode defaultXB [0x53] = .instruction .decb [] ∧
  decode defaultXB [0x44] = .instruction .lsra [] ∧
  decode defaultXB [0x47] = .instruction .asra [] ∧
  decode defaultXB [0x3F] = .instruction .swi [] ∧
  decode defaultXB [0xA6, 0x82] = .instruction (.ldaaConst5 .sp 2) [] ∧
  decode defaultXB [0xA6, 0x30] = .instruction (.ldaaAutoX false 1) [] ∧
  decode defaultXB [0x6A, 0xAF] = .instruction (.staaAutoSP true (-1)) [] ∧
  decode defaultXB [0x6B, 0xED] = .instruction (.stabAccB .y) [] ∧
  decode defaultXB [0xA6, 0xE9, 0xEC] = .instruction (.ldaaConst9 .y (-20)) [] ∧
  decode defaultXB [0xA6, 0xF2, 0x12, 0x34] = .instruction (.ldaaConst16 .sp 0x1234) [] ∧
  decode defaultXB [0xA6, 0xEF] = .instruction (.ldaaIndD .y) [] ∧
  decode defaultXB [0xA6, 0xE3, 0x00, 0x10] = .instruction (.ldaaInd16 .x 0x0010) []

/-! ## The step -/

/-- When the bytes at pc decode to an instruction, a step executes it at that state: the step adds nothing around `exec`
on this machine, and pc moves inside the instruction's own meaning (R14, R72). The premises are the spec's (R116, R131,
R140). -/
def Obligations.StepExecutesTheDecodedInstruction : Prop :=
  ∀ (s : State) (i : Instr) (rest : List Byte),
    s.Undisturbed → decode s.cfg.xbDecode s.bytesAtPc = .instruction i rest → s.Fetchable i.length → step s = exec i s

/-- R72: the fetch reads the bytes of the instruction and no other. Where bytes that are one instruction stand from pc on,
that instruction is executed, whatever follows them in memory and whether or not it may be read (addresses wrap, R14).
That only these bytes need be readable is the model's reading (log 29, DEDUCED). The instruction's own accesses are those
of its meaning. -/
def Obligations.FetchReadsOnlyTheInstructionsBytes : Prop :=
  ∀ (s : State) (bytes : List Byte) (i : Instr),
    s.Undisturbed → decode s.cfg.xbDecode bytes = .instruction i [] → s.Fetchable bytes.length →
    (∀ k b, bytes[k]? = some b → s.peek (s.pc + BitVec.ofNat 16 k) = b) → step s = exec i s

/-- R35, R36: a fetch from where nothing is, or from a device, is refused, at byte 0 and at any later byte of the
instruction (the spec's decision D19; that each byte of the instruction is asked for is log 29, and
that the first forbidden byte is the one reported is the model's choice, log 34). -/
def Obligations.FetchesTheMapForbidsAreRefused : Prop :=
  ∀ (s : State) (r : Refusal), s.Undisturbed →
    (ReadForbidden s s.pc r → step s = .refused r) ∧
    (∀ (i : Instr) (rest : List Byte) (k : Nat), decode s.cfg.xbDecode s.bytesAtPc = .instruction i rest → k < i.length →
      (∀ j, j < k → s.Readable (s.pc + BitVec.ofNat 16 j)) → ReadForbidden s (s.pc + BitVec.ofNat 16 k) r →
      step s = .refused r)

/-- A byte 0 outside R53's table is refused: no meaning and no trap (R68, the spec's decision D10). -/
def Obligations.UnlistedOpcodeByteIsRefused : Prop :=
  ∀ s : State, s.Undisturbed → s.Readable s.pc → (∀ b1 b2 b3, decodeForm s.cfg.xbDecode (s.peek s.pc) b1 b2 b3 = none) →
    step s = .refused (.opcodeNotInSource (s.peek s.pc))

/-- At `END_ADDR` the run has ended and nothing is fetched (R140). That the end is a fault by name is the model's choice
(log 22). -/
def Obligations.RunEndsAtEndAddr : Prop :=
  ∀ s : State, s.cfg.endAddr = some s.pc → step s = .fault .endOfRun

/-! ## What the instructions do -/

/-- R80, the whole rule: the fourteen LDAA rows with their object code and Access Detail, and where and how LDAA
completes. The effective address and the index update are those of the operand form. -/
def Obligations.LdaaLoadsTheOperandByte : Prop :=
  (∀ ii, encode (.ldaaImm ii) = [0x86, ii]) ∧ ObjectCode Instr.ldaa 0x96 0xB6 0xA6 ∧
  (∀ v ii, accessDetail v (.ldaaImm ii) = [.P]) ∧ (∀ v m, accessDetail v (.ldaa m) = loadStrings v m) ∧
  (∀ ii s, exec (.ldaaImm ii) s = .next { s with a := ii, ccr := movedFlags ii s.ccr, pc := s.pc + 2 }) ∧
  (∀ (m : MemOperand) (s : State), s.CanLoad m →
    let v := s.peek (effectiveAddress m (preModify m s))
    exec (.ldaa m) s = .next { postModify m (preModify m s) with
      a := v, ccr := movedFlags v s.ccr, pc := s.pc + BitVec.ofNat 16 (encode (.ldaa m)).length })

/-- R81, the whole rule: the thirteen STAA rows, where and how STAA completes, and that a store into `CODE_REGION` is
refused. -/
def Obligations.StaaStoresA : Prop :=
  ObjectCode Instr.staa 0x5A 0x7A 0x6A ∧ (∀ v m, accessDetail v (.staa m) = storeStrings v m) ∧
  (∀ (m : MemOperand) (s : State), s.CanStore m →
    let ea := effectiveAddress m (preModify m s)
    exec (.staa m) s = .next { postModify m ((preModify m s).poke ea s.a) with
      ccr := movedFlags s.a s.ccr, pc := s.pc + BitVec.ofNat 16 (encode (.staa m)).length }) ∧
  (∀ (m : MemOperand) (s : State), s.PointerReadable m → s.kindAt (effectiveAddress m (preModify m s)) = .plain →
    inCode s.cfg.codeRegion (effectiveAddress m (preModify m s)) = true →
    exec (.staa m) s = .refused (.storeIntoCode (effectiveAddress m (preModify m s))))

/-- R82, the whole rule: as R81 with B for A. -/
def Obligations.StabStoresB : Prop :=
  ObjectCode Instr.stab 0x5B 0x7B 0x6B ∧ (∀ v m, accessDetail v (.stab m) = storeStrings v m) ∧
  (∀ (m : MemOperand) (s : State), s.CanStore m →
    let ea := effectiveAddress m (preModify m s)
    exec (.stab m) s = .next { postModify m ((preModify m s).poke ea s.b) with
      ccr := movedFlags s.b s.ccr, pc := s.pc + BitVec.ofNat 16 (encode (.stab m)).length }) ∧
  (∀ (m : MemOperand) (s : State), s.PointerReadable m → s.kindAt (effectiveAddress m (preModify m s)) = .plain →
    inCode s.cfg.codeRegion (effectiveAddress m (preModify m s)) = true →
    exec (.stab m) s = .refused (.storeIntoCode (effectiveAddress m (preModify m s))))

/-- R90, the whole rule: the fourteen ADDA rows, where and how ADDA completes. The old A forms the address; the old C is no
input. -/
def Obligations.AddaAddsTheOperandByte : Prop :=
  (∀ ii, encode (.addaImm ii) = [0x8B, ii]) ∧ ObjectCode Instr.adda 0x9B 0xBB 0xAB ∧
  (∀ v ii, accessDetail v (.addaImm ii) = [.P]) ∧ (∀ v m, accessDetail v (.adda m) = loadStrings v m) ∧
  (∀ ii s, exec (.addaImm ii) s = .next { s with
    a := BitVec.ofNat 8 ((s.a.toNat + ii.toNat) % 256), ccr := sumFlags s.a ii s.ccr, pc := s.pc + 2 }) ∧
  (∀ (m : MemOperand) (s : State), s.CanLoad m →
    let v := s.peek (effectiveAddress m (preModify m s))
    exec (.adda m) s = .next { postModify m (preModify m s) with
      a := BitVec.ofNat 8 ((s.a.toNat + v.toNat) % 256), ccr := sumFlags s.a v s.ccr,
      pc := s.pc + BitVec.ofNat 16 (encode (.adda m)).length })

/-- R91, the whole rule. -/
def Obligations.IncaIncrementsA : Prop :=
  encode .inca = [0x42] ∧ (∀ v, accessDetail v .inca = [.O]) ∧
  ∀ s : State,
    let res : Byte := BitVec.ofNat 8 ((s.a.toNat + 1) % 256)
    exec .inca s = .next { s with
      a := res, ccr := { s.ccr with n := res.getLsbD 7, z := decide (res = 0), v := decide (s.a = 0x7F) }, pc := s.pc + 1 }

/-- R92, the whole rule. -/
def Obligations.ClrbClearsB : Prop :=
  encode .clrb = [0xC7] ∧ (∀ v, accessDetail v .clrb = [.O]) ∧
  ∀ s : State, exec .clrb s = .next { s with
    b := 0, ccr := { s.ccr with n := false, z := true, v := false, c := false }, pc := s.pc + 1 }

/-- R93, the whole rule. -/
def Obligations.DecbDecrementsB : Prop :=
  encode .decb = [0x53] ∧ (∀ v, accessDetail v .decb = [.O]) ∧
  ∀ s : State,
    let res : Byte := BitVec.ofNat 8 ((s.b.toNat + 255) % 256)
    exec .decb s = .next { s with
      b := res, ccr := { s.ccr with n := res.getLsbD 7, z := decide (res = 0), v := decide (s.b = 0x80) }, pc := s.pc + 1 }

/-- R100, the whole rule: bit by bit, bit 7 is loaded with 0 and C with the old bit 0. -/
def Obligations.LsraShiftsAZeroIn : Prop :=
  encode .lsra = [0x44] ∧ (∀ v, accessDetail v .lsra = [.O]) ∧
  ∀ s : State, ∃ res : Byte,
    (∀ k, k < 7 → res.getLsbD k = s.a.getLsbD (k + 1)) ∧ res.getLsbD 7 = false ∧
    exec .lsra s = .next { s with
      a := res
      ccr := { s.ccr with n := false, z := decide (res = 0), v := s.a.getLsbD 0, c := s.a.getLsbD 0 }
      pc := s.pc + 1 }

/-- R101, the whole rule: bit by bit, bit 7 is held and C is loaded with the old bit 0; V is N xor C after the shift. -/
def Obligations.AsraShiftsAKeepingItsSign : Prop :=
  encode .asra = [0x47] ∧ (∀ v, accessDetail v .asra = [.O]) ∧
  ∀ s : State, ∃ res : Byte,
    (∀ k, k < 7 → res.getLsbD k = s.a.getLsbD (k + 1)) ∧ res.getLsbD 7 = s.a.getLsbD 7 ∧
    exec .asra s = .next { s with
      a := res
      ccr := { s.ccr with n := res.getLsbD 7, z := decide (res = 0), v := res.getLsbD 7 ^^ s.a.getLsbD 0, c := s.a.getLsbD 0 }
      pc := s.pc + 1 }

/-- R105, the whole rule: where SWI completes, and the frame, SP, I and pc it leaves, whatever I holds before. The bit
positions inside the stacked CCR byte are `CcrByteHasTheFlagsInPrintedOrder`'s. -/
def Obligations.SwiStacksTheFrameAndVectors : Prop :=
  encode .swi = [0x3F] ∧ (∀ v, accessDetail v .swi = [.V, .S, .P, .S, .S, .P, .S, .s, .P]) ∧
  ∀ s : State, s.Inv → s.CanEnter s.cfg.swiVector →
    ∃ t, exec .swi s = .next t ∧ Entered (s.pc + 1) s.cfg.swiVector s t ∧ SameOutside s t

/-! ## Frames -/

/-- LDAA and ADDA, all twenty-eight rows: B, every byte of memory, the index registers but one that the form steps, and the
flags S, X, I (and for LDAA also H and C) are unchanged. -/
def Obligations.LoadsAndAddsLeaveTheRest : Prop :=
  ∀ (f : Form) (s t : State),
    ((∃ op ii, f = .imm op ii) ∨ (∃ m, f = .mem .ldaa m) ∨ (∃ m, f = .mem .adda m)) → exec f.toInstr s = .next t →
    t.b = s.b ∧ SameIndexBut f s t ∧ (∀ a, t.peek a = s.peek a) ∧ SameOutside s t ∧
    t.ccr.s = s.ccr.s ∧ t.ccr.x = s.ccr.x ∧ t.ccr.i = s.ccr.i ∧
    (((∃ ii, f = .imm .ldaa ii) ∨ (∃ m, f = .mem .ldaa m)) → t.ccr.h = s.ccr.h ∧ t.ccr.c = s.ccr.c)

/-- STAA and STAB, all twenty-six rows: A, B, every byte of memory but the one at the effective address, the index registers
but one that the form steps, and the flags S, X, H, I, C are unchanged. -/
def Obligations.StoresLeaveTheRest : Prop :=
  ∀ (op : MemOp) (m : MemOperand) (s t : State),
    (op = .staa ∨ op = .stab) → exec (Form.mem op m).toInstr s = .next t →
    t.a = s.a ∧ t.b = s.b ∧ SameIndexBut (.mem op m) s t ∧
    (∀ a, a ≠ effectiveAddress m (preModify m s) → t.peek a = s.peek a) ∧ SameOutside s t ∧
    t.ccr.s = s.ccr.s ∧ t.ccr.x = s.ccr.x ∧ t.ccr.h = s.ccr.h ∧ t.ccr.i = s.ccr.i ∧ t.ccr.c = s.ccr.c

/-- INCA, CLRB, DECB, LSRA, ASRA: the other accumulator, X, Y, SP, every byte of memory, and the flags S, X, H, I (and for
INCA and DECB also C) are unchanged. -/
def Obligations.InherentFormsLeaveTheRest : Prop :=
  ∀ (op : InhOp) (s t : State), op ≠ .swi → exec (Form.inh op).toInstr s = .next t →
    ((op = .inca ∨ op = .lsra ∨ op = .asra) → t.b = s.b) ∧ ((op = .clrb ∨ op = .decb) → t.a = s.a) ∧
    t.x = s.x ∧ t.y = s.y ∧ t.sp = s.sp ∧ (∀ a, t.peek a = s.peek a) ∧ SameOutside s t ∧
    t.ccr.s = s.ccr.s ∧ t.ccr.x = s.ccr.x ∧ t.ccr.h = s.ccr.h ∧ t.ccr.i = s.ccr.i ∧
    ((op = .inca ∨ op = .decb) → t.ccr.c = s.ccr.c)

/-- SWI: A, B, X, Y, every byte of memory outside the nine of the frame, and every flag but I are unchanged. -/
def Obligations.SwiLeavesTheRest : Prop :=
  ∀ s t : State, exec .swi s = .next t →
    t.a = s.a ∧ t.b = s.b ∧ t.x = s.x ∧ t.y = s.y ∧ (∀ a, a ∉ frameAddresses s.sp → t.peek a = s.peek a) ∧
    SameOutside s t ∧ t.ccr = { s.ccr with i := true }

/-- The writers of 10_state.md R22, over all instructions: what an instruction is not listed to write, it leaves as it
was. S and X are written by none, I by SWI alone, H by ADDA alone. -/
def Obligations.OnlyTheListedInstructionsWrite : Prop :=
  ∀ (i : Instr) (s t : State), exec i s = .next t →
    (writesA i.form = false → t.a = s.a) ∧ (writesB i.form = false → t.b = s.b) ∧
    (autoReg i.form ≠ some .x → t.x = s.x) ∧ (autoReg i.form ≠ some .y → t.y = s.y) ∧
    (autoReg i.form ≠ some .sp → i ≠ .swi → t.sp = s.sp) ∧
    (writesMemory i.form = false → t.mem = s.mem) ∧
    t.ccr.s = s.ccr.s ∧ t.ccr.x = s.ccr.x ∧ (i ≠ .swi → t.ccr.i = s.ccr.i) ∧
    (writesH i.form = false → t.ccr.h = s.ccr.h) ∧ (writesC i.form = false → t.ccr.c = s.ccr.c) ∧
    (i = .swi → t.ccr.n = s.ccr.n ∧ t.ccr.z = s.ccr.z ∧ t.ccr.v = s.ccr.v)

/-- R14: every instruction but SWI ends with pc moved past its own bytes, modulo 65536; SWI ends with pc from the vector. -/
def Obligations.PcMovesPastTheInstruction : Prop :=
  (∀ (i : Instr) (s t : State), i ≠ .swi → exec i s = .next t →
    t.pc.toNat = (s.pc.toNat + (encode i).length) % 65536) ∧
  (∀ s t : State, exec .swi s = .next t →
    t.pc = Word.ofBytes (s.peek s.cfg.swiVector) (s.peek (s.cfg.swiVector + 1)))

/-! ## Effective addresses (the formulas of R57 to R66 are the spec's own general knowledge, logs 9 to 12) -/

/-- R57, R58: a DIR address is the direct base and the operand byte, an EXT address the operand word. -/
def Obligations.DirectAndExtendedAddresses : Prop :=
  ∀ (s : State) (dd : Byte) (hhll : Word),
    (effectiveAddress (.dir dd) s).toNat = 256 * s.cfg.directBase.toNat + dd.toNat ∧
    effectiveAddress (.ext hhll) s = hhll

/-- R59, R62, R63, R66: the sum of base and signed offset modulo 65536 for each base; PC stands for the address after the
instruction's last byte. -/
def Obligations.ConstantOffsetAddresses : Prop :=
  ∀ (s : State) (off : Int) (w : Word),
    ((effectiveAddress (.const5 .x off) s).toNat : Int) = ((s.x.toNat : Int) + off) % 65536 ∧
    ((effectiveAddress (.const5 .y off) s).toNat : Int) = ((s.y.toNat : Int) + off) % 65536 ∧
    ((effectiveAddress (.const5 .sp off) s).toNat : Int) = ((s.sp.toNat : Int) + off) % 65536 ∧
    ((effectiveAddress (.const5 .pc off) s).toNat : Int) = ((s.pc.toNat : Int) + 2 + off) % 65536 ∧
    ((effectiveAddress (.const9 .x off) s).toNat : Int) = ((s.x.toNat : Int) + off) % 65536 ∧
    ((effectiveAddress (.const9 .y off) s).toNat : Int) = ((s.y.toNat : Int) + off) % 65536 ∧
    ((effectiveAddress (.const9 .sp off) s).toNat : Int) = ((s.sp.toNat : Int) + off) % 65536 ∧
    ((effectiveAddress (.const9 .pc off) s).toNat : Int) = ((s.pc.toNat : Int) + 3 + off) % 65536 ∧
    (effectiveAddress (.const16 .x w) s).toNat = (s.x.toNat + w.toNat) % 65536 ∧
    (effectiveAddress (.const16 .y w) s).toNat = (s.y.toNat + w.toNat) % 65536 ∧
    (effectiveAddress (.const16 .sp w) s).toNat = (s.sp.toNat + w.toNat) % 65536 ∧
    (effectiveAddress (.const16 .pc w) s).toNat = (s.pc.toNat + 4 + w.toNat) % 65536

/-- R61, R11, R66: A and B are unsigned offsets, D is 256 A + B. -/
def Obligations.AccumulatorOffsetAddresses : Prop :=
  ∀ (s : State) (base : Base),
    let v := (match base with | .x => s.x.toNat | .y => s.y.toNat | .sp => s.sp.toNat | .pc => s.pc.toNat + 2)
    (effectiveAddress (.accOff base .a) s).toNat = (v + s.a.toNat) % 65536 ∧
    (effectiveAddress (.accOff base .b) s).toNat = (v + s.b.toNat) % 65536 ∧
    (effectiveAddress (.accOff base .d) s).toNat = (v + (256 * s.a.toNat + s.b.toNat)) % 65536

/-- R64, R65, R32: the effective address is the big-endian word at base plus D, or base plus offset. -/
def Obligations.IndirectAddresses : Prop :=
  ∀ (s : State) (base : Base) (off p q : Word),
    let v := (fun len : Nat => match base with
      | .x => s.x.toNat | .y => s.y.toNat | .sp => s.sp.toNat | .pc => s.pc.toNat + len)
    (p.toNat = (v 2 + (256 * s.a.toNat + s.b.toNat)) % 65536 →
      (effectiveAddress (.indD base) s).toNat = 256 * (s.peek p).toNat + (s.peek (p + 1)).toNat) ∧
    (q.toNat = (v 4 + off.toNat) % 65536 →
      (effectiveAddress (.ind16 base off) s).toNat = 256 * (s.peek q).toNat + (s.peek (q + 1)).toNat)

/-- R60: with a pre form the access is at the stepped register, with a post form at the old one; the register ends stepped
by the signed amount, modulo 65536, for loads, adds and stores alike. -/
def Obligations.AutoFormsStepTheRegister : Prop :=
  ∀ (r : IndexReg) (pre : Bool) (delta : Int) (s : State) (new : Word),
    (new.toNat : Int) = (((s.index r).toNat : Int) + delta) % 65536 →
    let ea := (if pre then new else s.index r)
    (s.Readable ea → ∃ t, exec (.ldaa (.auto r pre delta)) s = .next t ∧ t.index r = new ∧ t.a = s.peek ea) ∧
    (s.Readable ea → ∃ t, exec (.adda (.auto r pre delta)) s = .next t ∧ t.index r = new ∧ t.a = s.a + s.peek ea) ∧
    (s.Inv → s.Writable ea →
      ∃ t, exec (.staa (.auto r pre delta)) s = .next t ∧ t.index r = new ∧ t.peek ea = s.a) ∧
    (s.Inv → s.Writable ea →
      ∃ t, exec (.stab (.auto r pre delta)) s = .next t ∧ t.index r = new ∧ t.peek ea = s.b)

/-! ## Flags and arithmetic -/

/-- R95, all fourteen rows: ADDA's H, V and C agree with the Boolean formulas, the overbars restored, for all operand pairs (the restored
overbars are the spec's reconstruction, forced by the prose). -/
def Obligations.AdditionFlagsAreTheFormulas : Prop :=
  (∀ (ii : Byte) (s t : State), exec (.addaImm ii) s = .next t → SumFormulas s.a ii t.a t.ccr) ∧
  (∀ (m : MemOperand) (s t : State), exec (.adda m) s = .next t →
    SumFormulas s.a (s.peek (effectiveAddress m (preModify m s))) t.a t.ccr)

/-- R94: C reports that the true unsigned sum exceeds 255, V that the true signed sum, increment or decrement leaves -128 to
127; the result wraps modulo 256. -/
def Obligations.CarryAndOverflowReportTheTrueSums : Prop :=
  (∀ (ii : Byte) (s t : State), exec (.addaImm ii) s = .next t → TrueSum s.a ii t.a t.ccr) ∧
  (∀ (m : MemOperand) (s t : State), exec (.adda m) s = .next t →
    TrueSum s.a (s.peek (effectiveAddress m (preModify m s))) t.a t.ccr) ∧
  (∀ s t : State, exec .inca s = .next t →
    t.a.toNat = (s.a.toNat + 1) % 256 ∧ (t.ccr.v = true ↔ 127 < s.a.toInt + 1) ∧ (t.ccr.n = true ↔ t.a.toInt < 0)) ∧
  (∀ s t : State, exec .decb s = .next t →
    t.b.toNat = (s.b.toNat + 255) % 256 ∧ (t.ccr.v = true ↔ s.b.toInt - 1 < -128) ∧ (t.ccr.n = true ↔ t.b.toInt < 0))

/-- The corner cases of R100 and R101: LSRA halves the unsigned value, ASRA the two's complement value, both rounding down
with the remainder in C; after LSRA V is C, after either V is N xor C. -/
def Obligations.ShiftsHalveWithTheRemainderInC : Prop :=
  (∀ s t : State, exec .lsra s = .next t →
    t.a.toNat = s.a.toNat / 2 ∧ (t.ccr.c = true ↔ s.a.toNat % 2 = 1) ∧ t.ccr.v = t.ccr.c ∧ t.ccr.v = (t.ccr.n ^^ t.ccr.c)) ∧
  (∀ s t : State, exec .asra s = .next t →
    t.a.toInt = s.a.toInt / 2 ∧ (t.ccr.c = true ↔ s.a.toInt % 2 = 1) ∧ t.ccr.v = (t.ccr.n ^^ t.ccr.c))

/-- R15: the CCR as a byte, S the most significant bit and C the least (the spec's decision D1, log 5), and back. -/
def Obligations.CcrByteHasTheFlagsInPrintedOrder : Prop :=
  ∀ f : Ccr,
    f.toByte.toNat = 128 * f.s.toNat + 64 * f.x.toNat + 32 * f.h.toNat + 16 * f.i.toNat + 8 * f.n.toNat + 4 * f.z.toNat +
      2 * f.v.toNat + f.c.toNat ∧ Ccr.ofByte f.toByte = f

/-- R16: no instruction but SWI reads a flag. With any other flags before, the instruction does the same, and the flags N, Z
and V, which each of the nine writes, come out the same; so do H and C where the instruction writes them. -/
def Obligations.FlagsAreNoInputOfAnyInstructionButSwi : Prop :=
  ∀ (i : Instr) (s t : State) (f : Ccr), i ≠ .swi → exec i s = .next t →
    ∃ g, exec i { s with ccr := f } = .next { t with ccr := g } ∧ g.n = t.ccr.n ∧ g.z = t.ccr.z ∧ g.v = t.ccr.v ∧
      (writesH i.form = true → g.h = t.ccr.h) ∧ (writesC i.form = true → g.c = t.ccr.c)

/-! ## Memory -/

/-- R31, R32: a 16-bit write puts the high byte at the lower address and the low byte at the next one modulo 65536, and a
16-bit read gives the value back; no other byte changes. -/
def Obligations.WordsAreStoredHighByteFirst : Prop :=
  ∀ (s : State) (a v : Word), s.Inv →
    (s.pokeWord a v).peek a = v.hi ∧ (s.pokeWord a v).peek (a + 1) = v.lo ∧ (s.pokeWord a v).peekWord a = v ∧
    ∀ k, k ≠ a → k ≠ a + 1 → (s.pokeWord a v).peek k = s.peek k

/-- R35, R36, R43, R46, the operand byte: a load or add from an address where nothing is, or that has side effects, is
refused, and so is a store to such an address, to memory that is not writable, or into the program (the spec's decisions
D13, D19). That a store into a program that is not plain memory reports `MEM_MAP`'s reason and not `storeIntoCode` is the
model's choice (log 34, DESIGN CHOICE). -/
def Obligations.OperandAccessesTheMapForbidsAreRefused : Prop :=
  ∀ (m : MemOperand) (s : State), s.PointerReadable m →
    let ea := effectiveAddress m (preModify m s)
    (s.kindAt ea = .absent →
      exec (.ldaa m) s = .refused (.absentAddress ea) ∧ exec (.adda m) s = .refused (.absentAddress ea) ∧
      exec (.staa m) s = .refused (.absentAddress ea) ∧ exec (.stab m) s = .refused (.absentAddress ea)) ∧
    (s.kindAt ea = .device →
      exec (.ldaa m) s = .refused (.deviceAddress ea) ∧ exec (.adda m) s = .refused (.deviceAddress ea) ∧
      exec (.staa m) s = .refused (.deviceAddress ea) ∧ exec (.stab m) s = .refused (.deviceAddress ea)) ∧
    (s.kindAt ea = .readOnly →
      exec (.staa m) s = .refused (.readOnlyAddress ea) ∧ exec (.stab m) s = .refused (.readOnlyAddress ea)) ∧
    (s.kindAt ea = .plain → inCode s.cfg.codeRegion ea = true →
      exec (.staa m) s = .refused (.storeIntoCode ea) ∧ exec (.stab m) s = .refused (.storeIntoCode ea))

/-- R35, R36, R64, R65: an indirect form whose pointer may not be read is refused, whatever it does with the operand byte
(the spec's decision D19; that the pointer's refusal is the one reported is the model's choice, log 34). -/
def Obligations.PointersTheMapForbidsAreRefused : Prop :=
  ∀ (m : MemOperand) (s : State) (p : Word) (r : Refusal),
    pointerAddress m (preModify m s) = some p → WordReadForbidden s p r →
    exec (.ldaa m) s = .refused r ∧ exec (.adda m) s = .refused r ∧
    exec (.staa m) s = .refused r ∧ exec (.stab m) s = .refused r

/-! ## Exceptions -/

/-- R106, R36, R43: an entry is refused when its frame covers a byte of its vector; else by the lowest byte of the frame that
may not be written; else, the frame being writable, by its vector when that may not be read (the spec's decisions D13,
D19, D21; that D21 holds for every entry is log 18, DEDUCED). Which refusal is reported where several apply is the
model's choice (log 34, DESIGN CHOICE). -/
def Obligations.EntriesTheMapForbidsAreRefused : Prop :=
  ∀ (s : State) (vec : Word) (r : Refusal),
    (∀ a ∈ frameAddresses s.sp, (a = vec ∨ a = vec + 1) → EntryRefused vec s .frameOverVector) ∧
    (vec ∉ frameAddresses s.sp → vec + 1 ∉ frameAddresses s.sp →
      (∀ k : Nat, 1 ≤ k → k ≤ 9 → (∀ j : Nat, k < j → j ≤ 9 → s.Writable (s.sp - BitVec.ofNat 16 j)) →
        WriteForbidden s (s.sp - BitVec.ofNat 16 k) r → EntryRefused vec s r) ∧
      ((∀ a ∈ frameAddresses s.sp, s.Writable a) → WordReadForbidden s vec r → EntryRefused vec s r))

/-- R131, R35, R36: a requested reset whose vector may not be read is refused (the spec's decision D19; the request is the
model's input, log 21, and the order of the two bytes in the refusal is log 34). -/
def Obligations.ResetVectorTheMapForbidsIsRefused : Prop :=
  ∀ (s : State) (r : Refusal), s.cfg.endAddr ≠ some s.pc → s.resetRequested = true →
    WordReadForbidden s s.cfg.resetVector r → step s = .refused r

/-- R106: SWI is refused when a byte of its frame is a byte of the vector, and, where the frame is plain memory, when a byte
of it is in `CODE_REGION` (the spec's decision D21). That the first is reported whatever else applies is the model's
choice (log 34). -/
def Obligations.SwiOverItsVectorOrTheProgramIsRefused : Prop :=
  ∀ (s : State) (k : Nat), 1 ≤ k → k ≤ 9 →
    ((s.sp - BitVec.ofNat 16 k = s.cfg.swiVector ∨ s.sp - BitVec.ofNat 16 k = s.cfg.swiVector + 1) →
      exec .swi s = .refused .frameOverVector) ∧
    (inCode s.cfg.codeRegion (s.sp - BitVec.ofNat 16 k) = true → ∃ r, exec .swi s = .refused r)

/-- R112, R117: the entry of an unimplemented-opcode trap is SWI's sequence through its own vector (the spec's derivation
from footnote 1; the model never invokes the trap, log 14). -/
def Obligations.UnimplementedOpcodeEntryIsTheSwiSequence : Prop :=
  ∀ (s : State) (ret : Word), s.Inv → s.CanEnter s.cfg.unimplVector →
    ∃ t, unimplementedOpcodeEntry ret s = .ok t ∧ Entered ret s.cfg.unimplVector s t ∧ SameOutside s t

/-- R107: at the handler's first instruction SP points at the stacked CCR, 1,SP is the stacked B, 2,SP the stacked A, and so
on up to the return address at 7,SP and 8,SP, as LDAA reads them. -/
def Obligations.HandlerReadsTheFrameThroughSp : Prop :=
  ∀ s t : State, s.Inv → exec .swi s = .next t →
    ∀ (off : Int) (v : Byte),
      (off, v) ∈ [((0 : Int), s.ccr.toByte), (1, s.b), (2, s.a), (3, s.x.hi), (4, s.x.lo), (5, s.y.hi), (6, s.y.lo),
        (7, (s.pc + 1).hi), (8, (s.pc + 1).lo)] →
      ∃ u, exec (.ldaaConst5 .sp off) t = .next u ∧ u.a = v ∧ u.sp = s.sp - 9

/-- R121: SWI inside a handler stacks a second frame below the first, which stays as it is; the second frame's CCR byte has
I set, and the same vector is taken. -/
def Obligations.NestedSwiStacksBelow : Prop :=
  ∀ s t u : State, s.Inv → exec .swi s = .next t → exec .swi t = .next u →
    u.sp = s.sp - 18 ∧ FrameStacked (s.pc + 1) s u ∧ FrameStacked (t.pc + 1) t u ∧
    (u.peek (s.sp - 18)).getLsbD 4 = true ∧ (t.pc = u.pc)

/-- R116 with R115: while I is 1, sources that are all maskable take nothing, and the step is the instruction's. -/
def Obligations.MaskedRequestsTakeNothing : Prop :=
  ∀ s : State, s.cfg.endAddr ≠ some s.pc → s.resetRequested = false → s.ccr.i = true →
    (∀ src ∈ s.irq, src.maskable = true) → step s = runInstruction s

/-- R116: whatever is taken between two instructions is a source that requests and is not maskable or finds I = 0; otherwise
the step is the instruction's. Which one is a free choice (log 20). -/
def Obligations.OnlyEnabledSourcesAreTaken : Prop :=
  ∀ s : State, s.cfg.endAddr ≠ some s.pc → s.resetRequested = false →
    step s = runInstruction s.afterChoice ∨
    ∃ src ∈ s.irq, src.requested = true ∧ (src.maskable = false ∨ s.ccr.i = false) ∧
      step s = outcomeOf (interruptEntry src s.afterChoice)

/-- R112, R116: a hardware interrupt that is taken enters by the SWI sequence through its own vector, with the address of the
instruction that would have executed next as return address (the spec's derivation and general knowledge). The requests
are kept (log 20). -/
def Obligations.TakenInterruptEntersBeforeTheInstruction : Prop :=
  ∀ (s : State) (src : IrqSource), s.boundary = .interrupt src → s.Inv → s.CanEnter src.vector →
    ∃ t, step s = .next t ∧ Entered s.pc src.vector s t ∧ t.irq = s.irq ∧ t.cfg = s.cfg

/-- R131, R132: a requested reset loads pc from the reset vector, sets S, X and I, writes no memory and reads no SP. The
three flag values are the spec's general knowledge (log 3); A, B, X, Y, SP and the other flags are free values and no
clause speaks of them. Two clauses are the model's choice: the interrupt requests are kept (`t.irq = s.irq`, log 20; R131
puts them outside the model), and the reset request is an input that the reset answers (`t.resetRequested = false`,
log 21). -/
def Obligations.ResetVectorsAndStacksNothing : Prop :=
  ∀ (s : State) (sp : Word), s.cfg.endAddr ≠ some s.pc → s.resetRequested = true →
    s.Readable s.cfg.resetVector → s.Readable (s.cfg.resetVector + 1) →
    ∃ t, step s = .next t ∧ step { s with sp := sp } = .next t ∧
      t.pc = Word.ofBytes (s.peek s.cfg.resetVector) (s.peek (s.cfg.resetVector + 1)) ∧
      t.ccr.s = true ∧ t.ccr.x = true ∧ t.ccr.i = true ∧ t.mem = s.mem ∧ t.irq = s.irq ∧ t.cfg = s.cfg ∧
      t.resetRequested = false

/-- R23: after reset pc is the word at `RESET_VECTOR_ADDR`, I, X and S are 1, no request is pending. The flag values and the
parameters' defaults are the spec's general knowledge (logs 3, 10, 15, 16). That memory lists nothing (`mem = []`, every
byte reads as `$FF`) is the model's choice (log 4): R23 and R24 leave memory unspecified. -/
def Obligations.ResetStateIsTheSpecs : Prop :=
  State.reset.pc = State.reset.peekWord State.reset.cfg.resetVector ∧ State.reset.ccr.i = true ∧
  State.reset.ccr.x = true ∧ State.reset.ccr.s = true ∧ State.reset.irq = [] ∧ State.reset.mem = [] ∧
  State.reset.cfg.swiVector = 0xFFF6 ∧ State.reset.cfg.unimplVector = 0xFFF8 ∧ State.reset.cfg.resetVector = 0xFFFE ∧
  State.reset.cfg.directBase = 0 ∧ State.reset.cfg.memMap = []

/-! ## Invariants and isolation -/

/-- Memory keeps its canonical form over every step: instruction, interrupt or reset. -/
def Obligations.MemoryStaysCanonical : Prop :=
  ∀ s t : State, s.Inv → step s = .next t → t.Inv

/-- The state after reset has the invariant that `MemoryStaysCanonical` keeps. -/
def Obligations.ResetMemoryIsCanonical : Prop := State.reset.Inv

/-- R115: once I is set no step clears it (a reset sets it too, by the spec's general knowledge, log 3). -/
def Obligations.InterruptMaskOnceSetStaysSet : Prop :=
  ∀ s t : State, s.ccr.i = true → step s = .next t → t.ccr.i = true

/-- R18: every instruction in scope and every entry preserves S and X; only a reset writes them. -/
def Obligations.SAndXFlagsChangeOnlyAtReset : Prop :=
  ∀ s t : State, s.resetRequested = false → step s = .next t → t.ccr.s = s.ccr.s ∧ t.ccr.x = s.ccr.x

/-- R43, R36: no step changes a byte of `CODE_REGION` or a byte that `MEM_MAP` does not make plain memory, and no step
changes the parameters; so a program stays what it was (the spec's decisions D13, D19). One clause is the model's choice:
the interrupt requests are kept over every step, a taken interrupt and a reset among them (`t.irq = s.irq`, log 20, DESIGN
CHOICE; R131 puts them outside the model). -/
def Obligations.ProgramAndForbiddenBytesNeverChange : Prop :=
  ∀ s t : State, step s = .next t →
    t.cfg = s.cfg ∧ t.irq = s.irq ∧
    ∀ a, (inCode s.cfg.codeRegion a = true ∨ s.kindAt a ≠ .plain) → t.peek a = s.peek a

/-- R139: the variant changes the Access Detail column and nothing that a step does; in the number of bus cycles the two
differ for the two indirect stores alone (R137). -/
def Obligations.VariantChangesTimingAlone : Prop :=
  (∀ (s t : State) (v : Variant), step s = .next t → step (withVariant v s) = .next (withVariant v t)) ∧
  (∀ i : Instr, cycleCount .hcs12 i ≠ cycleCount .m68hc12 i ↔
    (∃ base, i = .staa (.indD base) ∨ i = .stab (.indD base)) ∨
    (∃ base off, i = .staa (.ind16 base off) ∨ i = .stab (.ind16 base off)))
end

