-- ==== Sys2Proof/Laws/Decode.lean ====
section
/-! SUPPORT. What the decoder takes from `XB_DECODE` and from the bytes: the sub-mode that a table gives, and that a byte
beyond an instruction has no part in what is read. -/

namespace Sys2Proof

@[simp] theorem submodeOf_defaultXB (xb : Byte) : submodeOf defaultXB xb = decodeXB xb := rfl

@[simp] theorem submodeOf_cons_same (t : XbTable) (xb : Byte) (sub : Submode) : submodeOf ((xb, sub) :: t) xb = sub := by
  simp [submodeOf]

theorem submodeOf_cons_other (t : XbTable) {xb k : Byte} (sub : Submode) (h : xb ≠ k) :
    submodeOf ((k, sub) :: t) xb = submodeOf t xb := by
  simp [submodeOf, h]

/-- An indexed operand has the bytes after the postbyte that its length says. -/
theorem indexedOperand_of_agree (sub : Submode) {b2 b3 c2 c3 : Byte}
    (h2 : 2 < (indexedOperand sub b2 b3).length → c2 = b2) (h3 : 3 < (indexedOperand sub b2 b3).length → c3 = b3) :
    indexedOperand sub c2 c3 = indexedOperand sub b2 b3 := by
  cases sub with
  | const9 base sign => rw [h2 (by simp [indexedOperand, MemOperand.length])]; rfl
  | const16 base =>
    rw [h2 (by simp [indexedOperand, MemOperand.length]), h3 (by simp [indexedOperand, MemOperand.length])]
  | ind16 base =>
    rw [h2 (by simp [indexedOperand, MemOperand.length]), h3 (by simp [indexedOperand, MemOperand.length])]
  | const5 base off => rfl
  | auto reg pre delta => rfl
  | accOff base acc => rfl
  | indD base => rfl

/-- R72: the form read depends on the bytes inside its length alone. -/
theorem decodeForm_of_agree {t : XbTable} {b0 b1 b2 b3 c1 c2 c3 : Byte} {f : Form} (h : decodeForm t b0 b1 b2 b3 = some f)
    (h1 : 1 < f.length → c1 = b1) (h2 : 2 < f.length → c2 = b2) (h3 : 3 < f.length → c3 = b3) :
    decodeForm t b0 c1 c2 c3 = some f := by
  unfold decodeForm at h ⊢
  split at h
  · cases h
  · cases h; rfl
  · cases h; rw [h1 (by simp [Form.length])]
  · cases h; rw [h1 (by simp [Form.length, MemOperand.length])]
  · cases h; rw [h1 (by simp [Form.length, MemOperand.length]), h2 (by simp [Form.length, MemOperand.length])]
  · cases h
    have hl : 1 < (indexedOperand (submodeOf t b1) b2 b3).length := by
      cases submodeOf t b1 <;> simp [indexedOperand, MemOperand.length]
    rw [h1 hl]
    simp only [indexedOperand_of_agree (submodeOf t b1) h2 h3]

end Sys2Proof
end

