-- ==== Sys2Proof/Laws/Memory.lean ====
section
/-! SUPPORT. The laws of memory: a read after a write, that a write keeps the canonical form, and that canonical
memories that read alike are equal data. -/

namespace Sys2Proof.Machine

theorem Memory.read_write_other (m : Memory) {a k : Nat} (v : Byte) (h : a ≠ k) :
    (m.write k v).read a = m.read a := by
  induction m with
  | nil =>
    simp only [Memory.write]
    split <;> simp [Memory.read, h]
  | cons c rest ih =>
    obtain ⟨j, w⟩ := c
    simp only [Memory.write]
    split
    · split <;> simp [Memory.read, h]
    · split
      · rename_i hk
        subst hk
        split <;> simp [Memory.read, h]
      · simp [Memory.read, ih]

/-- Below the first listed address every byte is unlisted. -/
theorem Memory.read_eq_unlisted_of_lt (m : Memory) {a : Nat} (h : ∀ c ∈ m, a < c.1) :
    m.read a = Memory.unlisted := by
  induction m with
  | nil => rfl
  | cons c rest ih =>
    have hc := h c (by simp)
    have := ih (fun d hd => h d (by simp [hd]))
    simp only [Memory.read]
    rw [if_neg (by omega), this]

theorem Memory.read_write_same (m : Memory) (hm : m.wf) (k : Nat) (v : Byte) :
    (m.write k v).read k = v := by
  induction m with
  | nil =>
    simp only [Memory.write]
    split <;> simp_all [Memory.read]
  | cons c rest ih =>
    obtain ⟨j, w⟩ := c
    obtain ⟨hp, hc⟩ := hm
    rw [List.pairwise_cons] at hp
    have above : ∀ d ∈ rest, j < d.1 := hp.1
    simp only [Memory.write]
    split
    · rename_i hlt
      split
      · rename_i hv
        simp only [Memory.read]
        rw [if_neg (by omega), hv, Memory.read_eq_unlisted_of_lt]
        intro d hd
        have := above d hd
        omega
      · simp [Memory.read]
    · split
      · rename_i hk
        split
        · rename_i hv
          rw [hv, Memory.read_eq_unlisted_of_lt]
          intro d hd
          have := above d hd
          omega
        · simp [Memory.read]
      · rename_i hk
        simp only [Memory.read]
        rw [if_neg hk]
        exact ih ⟨hp.2, fun d hd => hc d (by simp [hd])⟩

theorem Memory.mem_write {m : Memory} {k : Nat} {v : Byte} {c : Host.Cell} (h : c ∈ m.write k v) :
    c ∈ m ∨ (c = (k, v) ∧ v ≠ Memory.unlisted) := by
  induction m with
  | nil =>
    simp only [Memory.write] at h
    split at h <;> simp_all
  | cons d rest ih =>
    obtain ⟨j, w⟩ := d
    simp only [Memory.write] at h
    split at h
    · split at h
      · exact .inl h
      · rcases List.mem_cons.1 h with h | h
        · exact .inr ⟨h, ‹_›⟩
        · exact .inl h
    · split at h
      · split at h
        · exact .inl (by simp [h])
        · rcases List.mem_cons.1 h with h | h
          · exact .inr ⟨h, ‹_›⟩
          · exact .inl (by simp [h])
      · rcases List.mem_cons.1 h with h | h
        · exact .inl (by simp [h])
        · rcases ih h with h | h
          · exact .inl (by simp [h])
          · exact .inr h

/-- A write inside the address space keeps the canonical form. -/
theorem Memory.write_wf (m : Memory) (hm : m.wf) {k : Nat} (hk : k < 65536) (v : Byte) : (m.write k v).wf := by
  refine ⟨?_, fun c hc => ?_⟩
  · induction m with
    | nil =>
      simp only [Memory.write]
      split <;> simp
    | cons d rest ih =>
      obtain ⟨j, w⟩ := d
      obtain ⟨hp, hc⟩ := hm
      have hp' := hp
      rw [List.pairwise_cons] at hp'
      simp only [Memory.write]
      split
      · rename_i hlt
        split
        · exact hp
        · rw [List.pairwise_cons]
          refine ⟨fun e he => ?_, hp⟩
          rcases List.mem_cons.1 he with rfl | he
          · exact hlt
          · exact Nat.lt_trans hlt (hp'.1 e he)
      · split
        · rename_i hkj
          split
          · exact hp'.2
          · rw [List.pairwise_cons]
            exact ⟨fun e he => hkj ▸ hp'.1 e he, hp'.2⟩
        · rw [List.pairwise_cons]
          refine ⟨fun e he => ?_, ih ⟨hp'.2, fun c hc' => hc c (by simp [hc'])⟩⟩
          rcases Memory.mem_write he with he | ⟨rfl, -⟩
          · exact hp'.1 e he
          · show j < k
            omega
  · rcases Memory.mem_write hc with h | ⟨rfl, hv⟩
    · exact hm.2 c h
    · exact ⟨hk, hv⟩

theorem Memory.nil_wf : Memory.wf [] := ⟨List.Pairwise.nil, by simp⟩

theorem Memory.wf_tail {c : Host.Cell} {m : Memory} (h : Memory.wf (c :: m)) : m.wf :=
  ⟨(List.pairwise_cons.1 h.1).2, fun d hd => h.2 d (by simp [hd])⟩

theorem Memory.read_head {c : Host.Cell} {m : Memory} : Memory.read (c :: m) c.1 = c.2 := by
  simp [Memory.read]

/-- Canonical memories that read alike are the same list. -/
theorem Memory.ext_of_read {m n : Memory} (hm : m.wf) (hn : n.wf) (h : ∀ a, m.read a = n.read a) : m = n := by
  induction m generalizing n with
  | nil =>
    cases n with
    | nil => rfl
    | cons d n =>
      have := h d.1
      rw [Memory.read_head] at this
      exact absurd this.symm (hn.2 d (by simp)).2
  | cons c m ih =>
    cases n with
    | nil =>
      have := h c.1
      rw [Memory.read_head] at this
      exact absurd this (hm.2 c (by simp)).2
    | cons d n =>
      have mAbove := (List.pairwise_cons.1 hm.1).1
      have nAbove := (List.pairwise_cons.1 hn.1).1
      have key : c.1 = d.1 := by
        rcases Nat.lt_trichotomy c.1 d.1 with hlt | heq | hlt
        · have hc := h c.1
          rw [Memory.read_head, Memory.read_eq_unlisted_of_lt (d :: n)] at hc
          · exact absurd hc (hm.2 c (by simp)).2
          · intro e he
            rcases List.mem_cons.1 he with rfl | he
            · exact hlt
            · exact Nat.lt_trans hlt (nAbove e he)
        · exact heq
        · have hd := h d.1
          rw [Memory.read_head, Memory.read_eq_unlisted_of_lt (c :: m)] at hd
          · exact absurd hd.symm (hn.2 d (by simp)).2
          · intro e he
            rcases List.mem_cons.1 he with rfl | he
            · exact hlt
            · exact Nat.lt_trans hlt (mAbove e he)
      have val : c.2 = d.2 := by
        have := h c.1
        rw [Memory.read_head, key, Memory.read_head] at this
        exact this
      have tail : m = n := by
        refine ih (Memory.wf_tail hm) (Memory.wf_tail hn) (fun a => ?_)
        by_cases ha : a = c.1
        · rw [Memory.read_eq_unlisted_of_lt m (fun e he => ha ▸ mAbove e he),
            Memory.read_eq_unlisted_of_lt n (fun e he => ha ▸ key ▸ nAbove e he)]
        · have := h a
          obtain ⟨ck, cv⟩ := c
          obtain ⟨dk, dv⟩ := d
          simp only at key val ha
          subst key
          simpa [Memory.read, ha] using this
      rw [tail, Prod.ext key val]

end Sys2Proof.Machine
end

