-- ==== Sys2Proof/Laws/State.lean ====
section
/-! SUPPORT. One lemma per field per update of the state, so that no later proof unfolds a record update, and what the
updates leave of the views and checks. -/

namespace Sys2Proof.Machine

variable (s : State)

@[simp] theorem State.setA_a (v : Byte) : (s.setA v).a = v := rfl
@[simp] theorem State.setA_b (v : Byte) : (s.setA v).b = s.b := rfl
@[simp] theorem State.setA_x (v : Byte) : (s.setA v).x = s.x := rfl
@[simp] theorem State.setA_y (v : Byte) : (s.setA v).y = s.y := rfl
@[simp] theorem State.setA_sp (v : Byte) : (s.setA v).sp = s.sp := rfl
@[simp] theorem State.setA_pc (v : Byte) : (s.setA v).pc = s.pc := rfl
@[simp] theorem State.setA_ccr (v : Byte) : (s.setA v).ccr = s.ccr := rfl
@[simp] theorem State.setA_mem (v : Byte) : (s.setA v).mem = s.mem := rfl
@[simp] theorem State.setA_irq (v : Byte) : (s.setA v).irq = s.irq := rfl
@[simp] theorem State.setA_cfg (v : Byte) : (s.setA v).cfg = s.cfg := rfl
@[simp] theorem State.setA_resetRequested (v : Byte) : (s.setA v).resetRequested = s.resetRequested := rfl
@[simp] theorem State.setA_draws (v : Byte) : (s.setA v).draws = s.draws := rfl

@[simp] theorem State.setB_a (v : Byte) : (s.setB v).a = s.a := rfl
@[simp] theorem State.setB_b (v : Byte) : (s.setB v).b = v := rfl
@[simp] theorem State.setB_x (v : Byte) : (s.setB v).x = s.x := rfl
@[simp] theorem State.setB_y (v : Byte) : (s.setB v).y = s.y := rfl
@[simp] theorem State.setB_sp (v : Byte) : (s.setB v).sp = s.sp := rfl
@[simp] theorem State.setB_pc (v : Byte) : (s.setB v).pc = s.pc := rfl
@[simp] theorem State.setB_ccr (v : Byte) : (s.setB v).ccr = s.ccr := rfl
@[simp] theorem State.setB_mem (v : Byte) : (s.setB v).mem = s.mem := rfl
@[simp] theorem State.setB_irq (v : Byte) : (s.setB v).irq = s.irq := rfl
@[simp] theorem State.setB_cfg (v : Byte) : (s.setB v).cfg = s.cfg := rfl
@[simp] theorem State.setB_resetRequested (v : Byte) : (s.setB v).resetRequested = s.resetRequested := rfl
@[simp] theorem State.setB_draws (v : Byte) : (s.setB v).draws = s.draws := rfl

@[simp] theorem State.setSP_a (v : Word) : (s.setSP v).a = s.a := rfl
@[simp] theorem State.setSP_b (v : Word) : (s.setSP v).b = s.b := rfl
@[simp] theorem State.setSP_x (v : Word) : (s.setSP v).x = s.x := rfl
@[simp] theorem State.setSP_y (v : Word) : (s.setSP v).y = s.y := rfl
@[simp] theorem State.setSP_sp (v : Word) : (s.setSP v).sp = v := rfl
@[simp] theorem State.setSP_pc (v : Word) : (s.setSP v).pc = s.pc := rfl
@[simp] theorem State.setSP_ccr (v : Word) : (s.setSP v).ccr = s.ccr := rfl
@[simp] theorem State.setSP_mem (v : Word) : (s.setSP v).mem = s.mem := rfl
@[simp] theorem State.setSP_irq (v : Word) : (s.setSP v).irq = s.irq := rfl
@[simp] theorem State.setSP_cfg (v : Word) : (s.setSP v).cfg = s.cfg := rfl
@[simp] theorem State.setSP_resetRequested (v : Word) : (s.setSP v).resetRequested = s.resetRequested := rfl
@[simp] theorem State.setSP_draws (v : Word) : (s.setSP v).draws = s.draws := rfl

@[simp] theorem State.setPc_a (v : Word) : (s.setPc v).a = s.a := rfl
@[simp] theorem State.setPc_b (v : Word) : (s.setPc v).b = s.b := rfl
@[simp] theorem State.setPc_x (v : Word) : (s.setPc v).x = s.x := rfl
@[simp] theorem State.setPc_y (v : Word) : (s.setPc v).y = s.y := rfl
@[simp] theorem State.setPc_sp (v : Word) : (s.setPc v).sp = s.sp := rfl
@[simp] theorem State.setPc_pc (v : Word) : (s.setPc v).pc = v := rfl
@[simp] theorem State.setPc_ccr (v : Word) : (s.setPc v).ccr = s.ccr := rfl
@[simp] theorem State.setPc_mem (v : Word) : (s.setPc v).mem = s.mem := rfl
@[simp] theorem State.setPc_irq (v : Word) : (s.setPc v).irq = s.irq := rfl
@[simp] theorem State.setPc_cfg (v : Word) : (s.setPc v).cfg = s.cfg := rfl
@[simp] theorem State.setPc_resetRequested (v : Word) : (s.setPc v).resetRequested = s.resetRequested := rfl
@[simp] theorem State.setPc_draws (v : Word) : (s.setPc v).draws = s.draws := rfl

@[simp] theorem State.setCcr_a (f : Ccr) : (s.setCcr f).a = s.a := rfl
@[simp] theorem State.setCcr_b (f : Ccr) : (s.setCcr f).b = s.b := rfl
@[simp] theorem State.setCcr_x (f : Ccr) : (s.setCcr f).x = s.x := rfl
@[simp] theorem State.setCcr_y (f : Ccr) : (s.setCcr f).y = s.y := rfl
@[simp] theorem State.setCcr_sp (f : Ccr) : (s.setCcr f).sp = s.sp := rfl
@[simp] theorem State.setCcr_pc (f : Ccr) : (s.setCcr f).pc = s.pc := rfl
@[simp] theorem State.setCcr_ccr (f : Ccr) : (s.setCcr f).ccr = f := rfl
@[simp] theorem State.setCcr_mem (f : Ccr) : (s.setCcr f).mem = s.mem := rfl
@[simp] theorem State.setCcr_irq (f : Ccr) : (s.setCcr f).irq = s.irq := rfl
@[simp] theorem State.setCcr_cfg (f : Ccr) : (s.setCcr f).cfg = s.cfg := rfl
@[simp] theorem State.setCcr_resetRequested (f : Ccr) : (s.setCcr f).resetRequested = s.resetRequested := rfl
@[simp] theorem State.setCcr_draws (f : Ccr) : (s.setCcr f).draws = s.draws := rfl

@[simp] theorem State.poke_a (k : Word) (v : Byte) : (s.poke k v).a = s.a := rfl
@[simp] theorem State.poke_b (k : Word) (v : Byte) : (s.poke k v).b = s.b := rfl
@[simp] theorem State.poke_x (k : Word) (v : Byte) : (s.poke k v).x = s.x := rfl
@[simp] theorem State.poke_y (k : Word) (v : Byte) : (s.poke k v).y = s.y := rfl
@[simp] theorem State.poke_sp (k : Word) (v : Byte) : (s.poke k v).sp = s.sp := rfl
@[simp] theorem State.poke_pc (k : Word) (v : Byte) : (s.poke k v).pc = s.pc := rfl
@[simp] theorem State.poke_ccr (k : Word) (v : Byte) : (s.poke k v).ccr = s.ccr := rfl
@[simp] theorem State.poke_mem (k : Word) (v : Byte) : (s.poke k v).mem = s.mem.write k.toNat v := rfl
@[simp] theorem State.poke_irq (k : Word) (v : Byte) : (s.poke k v).irq = s.irq := rfl
@[simp] theorem State.poke_cfg (k : Word) (v : Byte) : (s.poke k v).cfg = s.cfg := rfl
@[simp] theorem State.poke_resetRequested (k : Word) (v : Byte) : (s.poke k v).resetRequested = s.resetRequested := rfl
@[simp] theorem State.poke_draws (k : Word) (v : Byte) : (s.poke k v).draws = s.draws := rfl

@[simp] theorem State.advance_a (n : Nat) : (s.advance n).a = s.a := rfl
@[simp] theorem State.advance_b (n : Nat) : (s.advance n).b = s.b := rfl
@[simp] theorem State.advance_x (n : Nat) : (s.advance n).x = s.x := rfl
@[simp] theorem State.advance_y (n : Nat) : (s.advance n).y = s.y := rfl
@[simp] theorem State.advance_sp (n : Nat) : (s.advance n).sp = s.sp := rfl
@[simp] theorem State.advance_pc (n : Nat) : (s.advance n).pc = s.pc + BitVec.ofNat 16 n := rfl
@[simp] theorem State.advance_ccr (n : Nat) : (s.advance n).ccr = s.ccr := rfl
@[simp] theorem State.advance_mem (n : Nat) : (s.advance n).mem = s.mem := rfl
@[simp] theorem State.advance_irq (n : Nat) : (s.advance n).irq = s.irq := rfl
@[simp] theorem State.advance_cfg (n : Nat) : (s.advance n).cfg = s.cfg := rfl
@[simp] theorem State.advance_resetRequested (n : Nat) : (s.advance n).resetRequested = s.resetRequested := rfl
@[simp] theorem State.advance_draws (n : Nat) : (s.advance n).draws = s.draws := rfl

@[simp] theorem State.pokeWord_a (k v : Word) : (s.pokeWord k v).a = s.a := rfl
@[simp] theorem State.pokeWord_b (k v : Word) : (s.pokeWord k v).b = s.b := rfl
@[simp] theorem State.pokeWord_x (k v : Word) : (s.pokeWord k v).x = s.x := rfl
@[simp] theorem State.pokeWord_y (k v : Word) : (s.pokeWord k v).y = s.y := rfl
@[simp] theorem State.pokeWord_sp (k v : Word) : (s.pokeWord k v).sp = s.sp := rfl
@[simp] theorem State.pokeWord_pc (k v : Word) : (s.pokeWord k v).pc = s.pc := rfl
@[simp] theorem State.pokeWord_ccr (k v : Word) : (s.pokeWord k v).ccr = s.ccr := rfl
@[simp] theorem State.pokeWord_mem (k v : Word) : (s.pokeWord k v).mem = (s.mem.write k.toNat v.hi).write (k + 1).toNat v.lo := rfl
@[simp] theorem State.pokeWord_irq (k v : Word) : (s.pokeWord k v).irq = s.irq := rfl
@[simp] theorem State.pokeWord_cfg (k v : Word) : (s.pokeWord k v).cfg = s.cfg := rfl
@[simp] theorem State.pokeWord_resetRequested (k v : Word) : (s.pokeWord k v).resetRequested = s.resetRequested := rfl
@[simp] theorem State.pokeWord_draws (k v : Word) : (s.pokeWord k v).draws = s.draws := rfl

@[simp] theorem State.setIndex_x_a (v : Word) : (s.setIndex .x v).a = s.a := rfl
@[simp] theorem State.setIndex_x_b (v : Word) : (s.setIndex .x v).b = s.b := rfl
@[simp] theorem State.setIndex_x_x (v : Word) : (s.setIndex .x v).x = v := rfl
@[simp] theorem State.setIndex_x_y (v : Word) : (s.setIndex .x v).y = s.y := rfl
@[simp] theorem State.setIndex_x_sp (v : Word) : (s.setIndex .x v).sp = s.sp := rfl
@[simp] theorem State.setIndex_x_pc (v : Word) : (s.setIndex .x v).pc = s.pc := rfl
@[simp] theorem State.setIndex_x_ccr (v : Word) : (s.setIndex .x v).ccr = s.ccr := rfl
@[simp] theorem State.setIndex_x_mem (v : Word) : (s.setIndex .x v).mem = s.mem := rfl
@[simp] theorem State.setIndex_x_irq (v : Word) : (s.setIndex .x v).irq = s.irq := rfl
@[simp] theorem State.setIndex_x_cfg (v : Word) : (s.setIndex .x v).cfg = s.cfg := rfl
@[simp] theorem State.setIndex_x_resetRequested (v : Word) : (s.setIndex .x v).resetRequested = s.resetRequested := rfl
@[simp] theorem State.setIndex_x_draws (v : Word) : (s.setIndex .x v).draws = s.draws := rfl

@[simp] theorem State.setIndex_y_a (v : Word) : (s.setIndex .y v).a = s.a := rfl
@[simp] theorem State.setIndex_y_b (v : Word) : (s.setIndex .y v).b = s.b := rfl
@[simp] theorem State.setIndex_y_x (v : Word) : (s.setIndex .y v).x = s.x := rfl
@[simp] theorem State.setIndex_y_y (v : Word) : (s.setIndex .y v).y = v := rfl
@[simp] theorem State.setIndex_y_sp (v : Word) : (s.setIndex .y v).sp = s.sp := rfl
@[simp] theorem State.setIndex_y_pc (v : Word) : (s.setIndex .y v).pc = s.pc := rfl
@[simp] theorem State.setIndex_y_ccr (v : Word) : (s.setIndex .y v).ccr = s.ccr := rfl
@[simp] theorem State.setIndex_y_mem (v : Word) : (s.setIndex .y v).mem = s.mem := rfl
@[simp] theorem State.setIndex_y_irq (v : Word) : (s.setIndex .y v).irq = s.irq := rfl
@[simp] theorem State.setIndex_y_cfg (v : Word) : (s.setIndex .y v).cfg = s.cfg := rfl
@[simp] theorem State.setIndex_y_resetRequested (v : Word) : (s.setIndex .y v).resetRequested = s.resetRequested := rfl
@[simp] theorem State.setIndex_y_draws (v : Word) : (s.setIndex .y v).draws = s.draws := rfl

@[simp] theorem State.setIndex_sp_a (v : Word) : (s.setIndex .sp v).a = s.a := rfl
@[simp] theorem State.setIndex_sp_b (v : Word) : (s.setIndex .sp v).b = s.b := rfl
@[simp] theorem State.setIndex_sp_x (v : Word) : (s.setIndex .sp v).x = s.x := rfl
@[simp] theorem State.setIndex_sp_y (v : Word) : (s.setIndex .sp v).y = s.y := rfl
@[simp] theorem State.setIndex_sp_sp (v : Word) : (s.setIndex .sp v).sp = v := rfl
@[simp] theorem State.setIndex_sp_pc (v : Word) : (s.setIndex .sp v).pc = s.pc := rfl
@[simp] theorem State.setIndex_sp_ccr (v : Word) : (s.setIndex .sp v).ccr = s.ccr := rfl
@[simp] theorem State.setIndex_sp_mem (v : Word) : (s.setIndex .sp v).mem = s.mem := rfl
@[simp] theorem State.setIndex_sp_irq (v : Word) : (s.setIndex .sp v).irq = s.irq := rfl
@[simp] theorem State.setIndex_sp_cfg (v : Word) : (s.setIndex .sp v).cfg = s.cfg := rfl
@[simp] theorem State.setIndex_sp_resetRequested (v : Word) : (s.setIndex .sp v).resetRequested = s.resetRequested := rfl
@[simp] theorem State.setIndex_sp_draws (v : Word) : (s.setIndex .sp v).draws = s.draws := rfl

@[simp] theorem State.setIndex_a (r : IndexReg) (v : Word) : (s.setIndex r v).a = s.a := by
  cases r <;> rfl
@[simp] theorem State.setIndex_b (r : IndexReg) (v : Word) : (s.setIndex r v).b = s.b := by
  cases r <;> rfl
@[simp] theorem State.setIndex_pc (r : IndexReg) (v : Word) : (s.setIndex r v).pc = s.pc := by
  cases r <;> rfl
@[simp] theorem State.setIndex_ccr (r : IndexReg) (v : Word) : (s.setIndex r v).ccr = s.ccr := by
  cases r <;> rfl
@[simp] theorem State.setIndex_mem (r : IndexReg) (v : Word) : (s.setIndex r v).mem = s.mem := by
  cases r <;> rfl
@[simp] theorem State.setIndex_irq (r : IndexReg) (v : Word) : (s.setIndex r v).irq = s.irq := by
  cases r <;> rfl
@[simp] theorem State.setIndex_cfg (r : IndexReg) (v : Word) : (s.setIndex r v).cfg = s.cfg := by
  cases r <;> rfl
@[simp] theorem State.setIndex_resetRequested (r : IndexReg) (v : Word) : (s.setIndex r v).resetRequested = s.resetRequested := by
  cases r <;> rfl
@[simp] theorem State.setIndex_draws (r : IndexReg) (v : Word) : (s.setIndex r v).draws = s.draws := by
  cases r <;> rfl

@[simp] theorem preModify_a (m : MemOperand) : (preModify m s).a = s.a := by
  cases m <;> first | rfl | (rename_i r pre _; cases r <;> cases pre <;> rfl)
@[simp] theorem postModify_a (m : MemOperand) : (postModify m s).a = s.a := by
  cases m <;> first | rfl | (rename_i r pre _; cases r <;> cases pre <;> rfl)
@[simp] theorem preModify_b (m : MemOperand) : (preModify m s).b = s.b := by
  cases m <;> first | rfl | (rename_i r pre _; cases r <;> cases pre <;> rfl)
@[simp] theorem postModify_b (m : MemOperand) : (postModify m s).b = s.b := by
  cases m <;> first | rfl | (rename_i r pre _; cases r <;> cases pre <;> rfl)
@[simp] theorem preModify_pc (m : MemOperand) : (preModify m s).pc = s.pc := by
  cases m <;> first | rfl | (rename_i r pre _; cases r <;> cases pre <;> rfl)
@[simp] theorem postModify_pc (m : MemOperand) : (postModify m s).pc = s.pc := by
  cases m <;> first | rfl | (rename_i r pre _; cases r <;> cases pre <;> rfl)
@[simp] theorem preModify_ccr (m : MemOperand) : (preModify m s).ccr = s.ccr := by
  cases m <;> first | rfl | (rename_i r pre _; cases r <;> cases pre <;> rfl)
@[simp] theorem postModify_ccr (m : MemOperand) : (postModify m s).ccr = s.ccr := by
  cases m <;> first | rfl | (rename_i r pre _; cases r <;> cases pre <;> rfl)
@[simp] theorem preModify_mem (m : MemOperand) : (preModify m s).mem = s.mem := by
  cases m <;> first | rfl | (rename_i r pre _; cases r <;> cases pre <;> rfl)
@[simp] theorem postModify_mem (m : MemOperand) : (postModify m s).mem = s.mem := by
  cases m <;> first | rfl | (rename_i r pre _; cases r <;> cases pre <;> rfl)
@[simp] theorem preModify_irq (m : MemOperand) : (preModify m s).irq = s.irq := by
  cases m <;> first | rfl | (rename_i r pre _; cases r <;> cases pre <;> rfl)
@[simp] theorem postModify_irq (m : MemOperand) : (postModify m s).irq = s.irq := by
  cases m <;> first | rfl | (rename_i r pre _; cases r <;> cases pre <;> rfl)
@[simp] theorem preModify_cfg (m : MemOperand) : (preModify m s).cfg = s.cfg := by
  cases m <;> first | rfl | (rename_i r pre _; cases r <;> cases pre <;> rfl)
@[simp] theorem postModify_cfg (m : MemOperand) : (postModify m s).cfg = s.cfg := by
  cases m <;> first | rfl | (rename_i r pre _; cases r <;> cases pre <;> rfl)
@[simp] theorem preModify_resetRequested (m : MemOperand) : (preModify m s).resetRequested = s.resetRequested := by
  cases m <;> first | rfl | (rename_i r pre _; cases r <;> cases pre <;> rfl)
@[simp] theorem postModify_resetRequested (m : MemOperand) : (postModify m s).resetRequested = s.resetRequested := by
  cases m <;> first | rfl | (rename_i r pre _; cases r <;> cases pre <;> rfl)
@[simp] theorem preModify_draws (m : MemOperand) : (preModify m s).draws = s.draws := by
  cases m <;> first | rfl | (rename_i r pre _; cases r <;> cases pre <;> rfl)
@[simp] theorem postModify_draws (m : MemOperand) : (postModify m s).draws = s.draws := by
  cases m <;> first | rfl | (rename_i r pre _; cases r <;> cases pre <;> rfl)

@[simp] theorem State.index_setIndex (r : IndexReg) (v : Word) : (s.setIndex r v).index r = v := by
  cases r <;> rfl

/-! A byte is read from memory alone, and an access is judged by the parameters alone. -/

theorem State.peek_eq_of_mem {s t : State} (h : t.mem = s.mem) (a : Word) : t.peek a = s.peek a := by
  simp [State.peek, h]

theorem State.peekWord_eq_of_mem {s t : State} (h : t.mem = s.mem) (a : Word) : t.peekWord a = s.peekWord a := by
  simp [State.peekWord, h]

theorem State.kindAt_eq_of_cfg {s t : State} (h : t.cfg = s.cfg) (a : Word) : t.kindAt a = s.kindAt a := by
  simp [State.kindAt, h]

theorem readRefusal_eq_of_cfg {s t : State} (h : t.cfg = s.cfg) (a : Word) : readRefusal t a = readRefusal s a := by
  simp [readRefusal, State.kindAt, h]

theorem writeRefusal_eq_of_cfg {s t : State} (h : t.cfg = s.cfg) (a : Word) : writeRefusal t a = writeRefusal s a := by
  simp [writeRefusal, State.kindAt, h]

@[simp] theorem preModify_peek (m : MemOperand) (a : Word) : (preModify m s).peek a = s.peek a :=
  State.peek_eq_of_mem (preModify_mem s m) a

@[simp] theorem postModify_peek (m : MemOperand) (a : Word) : (postModify m s).peek a = s.peek a :=
  State.peek_eq_of_mem (postModify_mem s m) a

end Sys2Proof.Machine
end

