-- ==== Sys2Proof/Laws/Word.lean ====
section
/-! SUPPORT. A word and its two bytes. -/

namespace Sys2Proof

@[simp] theorem Word.hi_ofBytes (h l : Byte) : (Word.ofBytes h l).hi = h := by
  simp only [Word.hi, Word.ofBytes]
  apply BitVec.eq_of_getLsbD_eq
  intro i hi
  rw [BitVec.getLsbD_extractLsb', BitVec.getLsbD_append]
  simp [hi]

@[simp] theorem Word.lo_ofBytes (h l : Byte) : (Word.ofBytes h l).lo = l := by
  simp only [Word.lo, Word.ofBytes]
  apply BitVec.eq_of_getLsbD_eq
  intro i hi
  rw [BitVec.getLsbD_extractLsb', BitVec.getLsbD_append]
  simp [hi]

@[simp] theorem Word.ofBytes_hi_lo (w : Word) : Word.ofBytes w.hi w.lo = w := by
  simp only [Word.hi, Word.lo, Word.ofBytes]
  apply BitVec.eq_of_getLsbD_eq
  intro i hi
  rw [BitVec.getLsbD_append, BitVec.getLsbD_extractLsb', BitVec.getLsbD_extractLsb']
  by_cases h : i < 8
  · simp [h]
  · simp [h, show i - 8 < 8 by omega, show 8 + (i - 8) = i by omega]

end Sys2Proof
end

