-- ==== Sys2Proof/Laws/Ops.lean ====
section
/-! SUPPORT. What each shared operation does, said once: the access checks, the byte in memory, pushes, the operand load
and store, and the exception entry. -/

namespace Sys2Proof.Machine

/-! The access checks. -/

theorem readRefusal_eq_none_iff {s : State} {a : Word} : readRefusal s a = none ↔ s.Readable a := by
  unfold readRefusal State.Readable
  cases s.kindAt a <;> simp

theorem writeRefusal_eq_none_iff {s : State} {a : Word} : writeRefusal s a = none ↔ s.Writable a := by
  unfold writeRefusal State.Writable
  cases s.kindAt a <;> simp

theorem readWordRefusal_eq_none_iff {s : State} {a : Word} :
    readWordRefusal s a = none ↔ s.Readable a ∧ s.Readable (a + 1) := by
  unfold readWordRefusal
  rw [← readRefusal_eq_none_iff, ← readRefusal_eq_none_iff]
  cases readRefusal s a <;> simp

theorem fetchRefusal_eq_none_iff {s : State} {a : Word} {n : Nat} :
    fetchRefusal s a n = none ↔ ∀ k, k < n → s.Readable (a + BitVec.ofNat 16 k) := by
  induction n with
  | zero => simp [fetchRefusal]
  | succ n ih =>
    simp only [fetchRefusal]
    constructor
    · intro h k hk
      cases hf : fetchRefusal s a n with
      | some r => simp [hf] at h
      | none =>
        rcases Nat.lt_succ_iff_lt_or_eq.1 hk with hk | rfl
        · exact ih.1 hf k hk
        · exact readRefusal_eq_none_iff.1 (by simpa [hf] using h)
    · intro h
      rw [ih.2 (fun k hk => h k (by omega))]
      exact readRefusal_eq_none_iff.2 (h n (by omega))

theorem pointerRefusal_eq_none_iff {s : State} {m : MemOperand} :
    pointerRefusal m (preModify m s) = none ↔ s.PointerReadable m := by
  unfold pointerRefusal State.PointerReadable
  cases pointerAddress m (preModify m s) with
  | none => simp
  | some p =>
    simp only [Option.some.injEq, forall_eq']
    rw [readWordRefusal_eq_none_iff]
    simp [State.Readable, State.kindAt]

theorem loadRefusal_eq_none_iff {s : State} {m : MemOperand} : loadRefusal m s = none ↔ s.CanLoad m := by
  unfold loadRefusal State.CanLoad
  rw [← pointerRefusal_eq_none_iff, ← readRefusal_eq_none_iff]
  cases pointerRefusal m (preModify m s) <;> simp

theorem storeRefusal_eq_none_iff {s : State} {m : MemOperand} : storeRefusal m s = none ↔ s.CanStore m := by
  unfold storeRefusal State.CanStore
  rw [← pointerRefusal_eq_none_iff, ← writeRefusal_eq_none_iff]
  cases pointerRefusal m (preModify m s) <;> simp

/-! Bytes in memory. -/

theorem State.peek_poke_other (s : State) {a k : Word} (v : Byte) (h : a ≠ k) : (s.poke k v).peek a = s.peek a := by
  have : a.toNat ≠ k.toNat := fun hn => h (BitVec.eq_of_toNat_eq hn)
  simp [State.peek, Memory.read_write_other, this]

theorem State.peek_poke_same (s : State) (hs : s.mem.wf) (k : Word) (v : Byte) : (s.poke k v).peek k = v := by
  simp [State.peek, Memory.read_write_same s.mem hs]

theorem State.poke_wf (s : State) (hs : s.mem.wf) (k : Word) (v : Byte) : (s.poke k v).mem.wf := by
  simpa using Memory.write_wf s.mem hs k.isLt v

@[simp] theorem State.setPc_peek (s : State) (v a : Word) : (s.setPc v).peek a = s.peek a := rfl
@[simp] theorem State.setCcr_peek (s : State) (f : Ccr) (a : Word) : (s.setCcr f).peek a = s.peek a := rfl
@[simp] theorem State.setSP_peek (s : State) (v a : Word) : (s.setSP v).peek a = s.peek a := rfl
@[simp] theorem State.setA_peek (s : State) (v : Byte) (a : Word) : (s.setA v).peek a = s.peek a := rfl
@[simp] theorem State.setB_peek (s : State) (v : Byte) (a : Word) : (s.setB v).peek a = s.peek a := rfl
@[simp] theorem State.advance_peek (s : State) (n : Nat) (a : Word) : (s.advance n).peek a = s.peek a := rfl

theorem State.peekWord_eq (s : State) (a : Word) : s.peekWord a = Word.ofBytes (s.peek a) (s.peek (a + 1)) := rfl

/-! The operand load and store: if the access is admitted, what they answer; if they answer, that it was admitted. -/

theorem loadOperand_of_canLoad {s : State} {m : MemOperand} (h : s.CanLoad m) :
    loadOperand m s =
      .ok (s.peek (effectiveAddress m (preModify m s)), postModify m (preModify m s)) := by
  unfold loadOperand
  rw [loadRefusal_eq_none_iff.2 h]
  simp

theorem loadOperand_ok {s t : State} {m : MemOperand} {v : Byte} (h : loadOperand m s = .ok (v, t)) :
    s.CanLoad m ∧ v = s.peek (effectiveAddress m (preModify m s)) ∧ t = postModify m (preModify m s) := by
  unfold loadOperand at h
  split at h
  · cases h
  · rename_i hr
    simp only [preModify_peek, Except.ok.injEq, Prod.mk.injEq] at h
    exact ⟨loadRefusal_eq_none_iff.1 hr, h.1.symm, h.2.symm⟩

theorem storeOperand_of_canStore {s : State} {m : MemOperand} (h : s.CanStore m) (v : Byte) :
    storeOperand m v s =
      .ok (postModify m ((preModify m s).poke (effectiveAddress m (preModify m s)) v)) := by
  unfold storeOperand
  rw [storeRefusal_eq_none_iff.2 h]

theorem storeOperand_ok {s t : State} {m : MemOperand} {v : Byte} (h : storeOperand m v s = .ok t) :
    s.CanStore m ∧ t = postModify m ((preModify m s).poke (effectiveAddress m (preModify m s)) v) := by
  unfold storeOperand at h
  split at h
  · cases h
  · rename_i hr
    simp only [Except.ok.injEq] at h
    exact ⟨storeRefusal_eq_none_iff.1 hr, h.symm⟩

/-! Pushes and the exception entry. -/

@[simp] theorem State.pushWord_mem (s : State) (v : Word) :
    (s.pushWord v).mem = (s.pokeWord (s.sp - 2) v).mem := rfl

@[simp] theorem State.pushByte_mem (s : State) (v : Byte) : (s.pushByte v).mem = (s.poke (s.sp - 1) v).mem := rfl

/-- What a push leaves: SP and memory alone change. -/
theorem State.pushWord_rest (s : State) (v : Word) :
    s.pushWord v = { s with sp := s.sp - 2, mem := (s.pushWord v).mem } := rfl

theorem State.pushByte_rest (s : State) (v : Byte) :
    s.pushByte v = { s with sp := s.sp - 1, mem := (s.pushByte v).mem } := rfl

/-- R113: the frame as nine single bytes, from the highest address down. -/
def frameBytes (ret : Word) (s : State) : List (Word × Byte) :=
  [(s.sp - 2, ret.hi), (s.sp - 1, ret.lo), (s.sp - 4, s.y.hi), (s.sp - 3, s.y.lo), (s.sp - 6, s.x.hi),
    (s.sp - 5, s.x.lo), (s.sp - 8, s.b), (s.sp - 7, s.a), (s.sp - 9, s.ccr.toByte)]

/-- Bytes stored one after another. -/
def pokeAll (s : State) (l : List (Word × Byte)) : State := l.foldl (fun t c => t.poke c.1 c.2) s

theorem pokeAll_wf (l : List (Word × Byte)) (s : State) (hs : s.mem.wf) : (pokeAll s l).mem.wf := by
  induction l generalizing s with
  | nil => exact hs
  | cons c l ih => exact ih _ (State.poke_wf s hs c.1 c.2)

theorem pokeAll_peek_other (l : List (Word × Byte)) (s : State) {a : Word} (h : ∀ c ∈ l, a ≠ c.1) :
    (pokeAll s l).peek a = s.peek a := by
  induction l generalizing s with
  | nil => rfl
  | cons c l ih =>
    rw [pokeAll, List.foldl_cons]
    exact (ih (s.poke c.1 c.2) (fun d hd => h d (by simp [hd]))).trans
      (State.peek_poke_other s c.2 (h c (by simp)))

/-- Of bytes stored at distinct addresses each one is there afterwards. -/
theorem pokeAll_peek_mem (l : List (Word × Byte)) (s : State) (hs : s.mem.wf)
    (hd : l.Pairwise (fun c d => c.1 ≠ d.1)) {c : Word × Byte} (hc : c ∈ l) : (pokeAll s l).peek c.1 = c.2 := by
  induction l generalizing s with
  | nil => simp at hc
  | cons d l ih =>
    rw [pokeAll, List.foldl_cons]
    rw [List.pairwise_cons] at hd
    rcases List.mem_cons.1 hc with rfl | hc
    · exact (pokeAll_peek_other l _ (fun e he => hd.1 e he)).trans (State.peek_poke_same s hs _ _)
    · exact ih _ (State.poke_wf s hs d.1 d.2) hd.2 hc

/-- The five pushes store the frame's bytes and move SP by nine; nothing else changes. -/
theorem pushFrame_eq (ret : Word) (s : State) :
    pushFrame ret s = { s with sp := s.sp - 9, mem := (pokeAll s (frameBytes ret s)).mem } := by
  have e2 : ∀ w : Word, w - 2 + 1 = w - 1 := fun w => by bv_omega
  have e4 : ∀ w : Word, w - 2 - 2 = w - 4 := fun w => by bv_omega
  have e4' : ∀ w : Word, w - 4 + 1 = w - 3 := fun w => by bv_omega
  have e6 : ∀ w : Word, w - 4 - 2 = w - 6 := fun w => by bv_omega
  have e6' : ∀ w : Word, w - 6 + 1 = w - 5 := fun w => by bv_omega
  have e8 : ∀ w : Word, w - 6 - 2 = w - 8 := fun w => by bv_omega
  have e8' : ∀ w : Word, w - 8 + 1 = w - 7 := fun w => by bv_omega
  have e9 : ∀ w : Word, w - 8 - 1 = w - 9 := fun w => by bv_omega
  simp only [pushFrame, State.pushWord, State.pushByte, State.pokeWord, State.poke, State.setSP, pokeAll, frameBytes,
    List.foldl_cons, List.foldl_nil, Word.hi_ofBytes, Word.lo_ofBytes, e2, e4, e4', e6, e6', e8, e8', e9]

theorem frameBytes_addresses_distinct (ret : Word) (s : State) :
    (frameBytes ret s).Pairwise (fun c d => c.1 ≠ d.1) := by
  simp only [frameBytes, List.pairwise_cons, List.mem_cons, List.not_mem_nil, or_false, forall_eq_or_imp, forall_eq]
  refine ⟨?_, ?_, ?_, ?_, ?_, ?_, ?_, ?_, ?_, ?_⟩ <;> first | exact List.Pairwise.nil | (intros; contradiction) | skip
  all_goals (repeat' constructor) <;> bv_omega

theorem mem_frameAddresses_iff (ret : Word) (s : State) (a : Word) :
    a ∈ frameAddresses s.sp ↔ ∃ c ∈ frameBytes ret s, a = c.1 := by
  simp [frameAddresses, frameBytes]
  tauto

theorem frameCovers_eq_false_iff {sp vec : Word} :
    frameCovers sp vec = false ↔ vec ∉ frameAddresses sp ∧ vec + 1 ∉ frameAddresses sp := by
  unfold frameCovers
  rw [List.any_eq_false]
  constructor
  · intro h
    exact ⟨fun hm => by simpa using h _ hm, fun hm => by simpa using h _ hm⟩
  · rintro ⟨h1, h2⟩ a ha
    simp only [Bool.or_eq_true, beq_iff_eq, not_or]
    exact ⟨fun e => h1 (e ▸ ha), fun e => h2 (e ▸ ha)⟩

theorem entryRefusal_eq_none_iff {vec : Word} {s : State} : entryRefusal vec s = none ↔ s.CanEnter vec := by
  unfold entryRefusal
  cases hc : frameCovers s.sp vec with
  | true =>
    simp only [if_true, reduceCtorEq, false_iff]
    intro h
    rw [frameCovers_eq_false_iff.2 h.disjoint] at hc
    cases hc
  | false =>
    simp only [Bool.false_eq_true, if_false]
    cases hf : (frameAddresses s.sp).findSome? (writeRefusal s) with
    | some r =>
      simp only [reduceCtorEq, false_iff]
      intro h
      obtain ⟨a, ha, hr⟩ := List.exists_of_findSome?_eq_some hf
      rw [writeRefusal_eq_none_iff.2 (h.frameWritable a ha)] at hr
      cases hr
    | none =>
      rw [List.findSome?_eq_none_iff] at hf
      simp only [readWordRefusal_eq_none_iff]
      exact ⟨fun h => ⟨fun a ha => writeRefusal_eq_none_iff.1 (hf a ha), h, frameCovers_eq_false_iff.1 hc⟩,
        fun h => h.vectorReadable⟩

/-- The state that an exception entry leaves (R112). -/
def enteredState (ret vec : Word) (s : State) : State :=
  { s with
    sp := s.sp - 9
    mem := (pokeAll s (frameBytes ret s)).mem
    ccr := setIFlag s.ccr
    pc := s.peekWord vec }

theorem exceptionEntry_of_canEnter {vec : Word} {s : State} (h : s.CanEnter vec) (ret : Word) :
    exceptionEntry ret vec s =
      .ok (enteredState ret vec s) := by
  have hv : ∀ c ∈ frameBytes ret s, vec ≠ c.1 := fun c hc e =>
    h.disjoint.1 ((mem_frameAddresses_iff ret s vec).2 ⟨c, hc, e⟩)
  have hv' : ∀ c ∈ frameBytes ret s, vec + 1 ≠ c.1 := fun c hc e =>
    h.disjoint.2 ((mem_frameAddresses_iff ret s (vec + 1)).2 ⟨c, hc, e⟩)
  have hw : ∀ sp' : Word,
      State.peekWord { s with sp := sp', mem := (pokeAll s (frameBytes ret s)).mem } vec = s.peekWord vec := by
    intro sp'
    have h1 := pokeAll_peek_other _ s hv
    have h2 := pokeAll_peek_other _ s hv'
    simp only [State.peek] at h1 h2
    simp only [State.peekWord, Memory.readWord, h1, h2]
  unfold exceptionEntry
  rw [entryRefusal_eq_none_iff.2 h]
  simp only [pushFrame_eq, hw, State.setCcr, State.setPc, enteredState]

theorem exceptionEntry_of_refusal {vec : Word} {s : State} {r : Refusal} (h : entryRefusal vec s = some r) (ret : Word) :
    exceptionEntry ret vec s = .error r := by
  unfold exceptionEntry
  rw [h]

theorem exceptionEntry_ok {ret vec : Word} {s t : State} (h : exceptionEntry ret vec s = .ok t) :
    s.CanEnter vec ∧
      t = enteredState ret vec s := by
  cases hr : entryRefusal vec s with
  | some r => simp [exceptionEntry, hr] at h
  | none =>
    have hc := entryRefusal_eq_none_iff.1 hr
    rw [exceptionEntry_of_canEnter hc ret, Except.ok.injEq] at h
    exact ⟨hc, h.symm⟩

theorem enteredState_peek (ret vec : Word) (s : State) (a : Word) :
    (enteredState ret vec s).peek a = (pokeAll s (frameBytes ret s)).peek a := by
  simp only [State.peek, enteredState]

theorem enteredState_peek_frame (ret vec : Word) (s : State) (hs : s.mem.wf) {c : Word × Byte}
    (hc : c ∈ frameBytes ret s) : (enteredState ret vec s).peek c.1 = c.2 := by
  rw [enteredState_peek]
  exact pokeAll_peek_mem _ s hs (frameBytes_addresses_distinct ret s) hc

theorem enteredState_peek_other (ret vec : Word) (s : State) {a : Word} (ha : a ∉ frameAddresses s.sp) :
    (enteredState ret vec s).peek a = s.peek a := by
  rw [enteredState_peek]
  exact pokeAll_peek_other _ s (fun c hc e => ha ((mem_frameAddresses_iff ret s a).2 ⟨c, hc, e⟩))

theorem enteredState_wf (ret vec : Word) (s : State) (hs : s.mem.wf) : (enteredState ret vec s).mem.wf :=
  pokeAll_wf _ s hs

theorem resetEntry_ok {s t : State} (h : resetEntry s = .ok t) :
    s.Readable s.cfg.resetVector ∧ s.Readable (s.cfg.resetVector + 1) ∧ t.pc = s.peekWord s.cfg.resetVector ∧
      t.ccr = resetFlags s.draws ∧ t.mem = s.mem ∧ t.cfg = s.cfg ∧ t.irq = s.irq ∧ t.resetRequested = false := by
  unfold resetEntry at h
  split at h
  · cases h
  · rename_i hr
    obtain ⟨h1, h2⟩ := readWordRefusal_eq_none_iff.1 hr
    cases h
    exact ⟨h1, h2, rfl, rfl, rfl, rfl, rfl, rfl⟩

theorem outcomeOf_eq_next {e : Except Refusal State} {t : State} (h : outcomeOf e = .next t) : e = .ok t := by
  cases e with
  | error r => cases h
  | ok u => cases h; rfl

end Sys2Proof.Machine
end

