-- ==== Sys2Proof/Laws/Dispatch.lean ====
section
/-! SUPPORT. The sixty arms of `exec` seen as operation and operand form, what each meaning does said once, and the
cases of a step. -/

namespace Sys2Proof

@[simp] theorem Instr.toInstr_form (i : Instr) : i.form.toInstr = i := by
  cases i <;> rfl

@[simp] theorem Form.form_toInstr (f : Form) : f.toInstr.form = f := by
  cases f with
  | inh op => cases op <;> rfl
  | imm op ii => cases op <;> rfl
  | mem op m =>
    cases op <;> cases m <;> first | rfl | (rename_i r _ _; cases r <;> rfl) | (rename_i _ acc; cases acc <;> rfl)

@[simp] theorem Form.length_toInstr (f : Form) : f.toInstr.length = f.length := by
  simp [Instr.length]

@[simp] theorem Form.encode_toInstr (f : Form) : Sys2Proof.encode f.toInstr = f.encode := by
  simp [Sys2Proof.encode]

namespace Machine

/-- The meaning of an operation and operand form. -/
def execForm : Form → State → Result
  | .inh .inca, s => execInca s
  | .inh .clrb, s => execClrb s
  | .inh .decb, s => execDecb s
  | .inh .lsra, s => execLsra s
  | .inh .asra, s => execAsra s
  | .inh .swi, s => execSwi s
  | .imm .ldaa ii, s => loadImmA ii s
  | .imm .adda ii, s => addImmA ii s
  | .mem .ldaa m, s => loadA m s
  | .mem .adda m, s => addA m s
  | .mem .staa m, s => storeA m s
  | .mem .stab m, s => storeB m s

theorem exec_eq_execForm (i : Instr) (s : State) : exec i s = execForm i.form s := by
  cases i <;> rfl

theorem exec_toInstr (f : Form) (s : State) : exec f.toInstr s = execForm f s := by
  rw [exec_eq_execForm, Form.form_toInstr]

/-! Each meaning: where it completes, and what a next state it answers is. -/

theorem loadA_of_canLoad {m : MemOperand} {s : State} (h : s.CanLoad m) :
    loadA m s = .next ((loadedA (s.peek (effectiveAddress m (preModify m s))) (postModify m (preModify m s))).advance
      m.length) := by
  unfold loadA
  rw [loadOperand_of_canLoad h]

theorem loadA_next {m : MemOperand} {s t : State} (h : loadA m s = .next t) :
    s.CanLoad m ∧ t = (loadedA (s.peek (effectiveAddress m (preModify m s)))
      (postModify m (preModify m s))).advance m.length := by
  unfold loadA at h
  split at h
  · cases h
  · rename_i hl
    obtain ⟨hc, rfl, rfl⟩ := loadOperand_ok hl
    cases h
    exact ⟨hc, rfl⟩

theorem addA_of_canLoad {m : MemOperand} {s : State} (h : s.CanLoad m) :
    addA m s = .next ((addedA (s.peek (effectiveAddress m (preModify m s))) (postModify m (preModify m s))).advance
      m.length) := by
  unfold addA
  rw [loadOperand_of_canLoad h]

theorem addA_next {m : MemOperand} {s t : State} (h : addA m s = .next t) :
    s.CanLoad m ∧ t = (addedA (s.peek (effectiveAddress m (preModify m s)))
      (postModify m (preModify m s))).advance m.length := by
  unfold addA at h
  split at h
  · cases h
  · rename_i hl
    obtain ⟨hc, rfl, rfl⟩ := loadOperand_ok hl
    cases h
    exact ⟨hc, rfl⟩

/-- The state in which a store to a memory operand leaves the machine. -/
def storedTo (m : MemOperand) (v : Byte) (s : State) : State :=
  postModify m ((preModify m s).poke (effectiveAddress m (preModify m s)) v)

theorem storeByte_of_canStore {m : MemOperand} {s : State} (h : s.CanStore m) (v : Byte) :
    storeByte v m s = .next (((storedTo m v s).setCcr (moveFlags v s.ccr)).advance m.length) := by
  unfold storeByte
  rw [storeOperand_of_canStore h]
  simp [storedTo]

theorem storeByte_next {m : MemOperand} {s t : State} {v : Byte} (h : storeByte v m s = .next t) :
    s.CanStore m ∧ t = ((storedTo m v s).setCcr (moveFlags v s.ccr)).advance m.length := by
  unfold storeByte at h
  split at h
  · cases h
  · rename_i hl
    obtain ⟨hc, rfl⟩ := storeOperand_ok hl
    cases h
    exact ⟨hc, by simp [storedTo]⟩

theorem execSwi_of_canEnter {s : State} (h : s.CanEnter s.cfg.swiVector) :
    execSwi s = .next (enteredState (s.pc + 1) s.cfg.swiVector s) := by
  unfold execSwi
  rw [exceptionEntry_of_canEnter h]
  rfl

theorem execSwi_next {s t : State} (h : execSwi s = .next t) :
    s.CanEnter s.cfg.swiVector ∧ t = enteredState (s.pc + 1) s.cfg.swiVector s :=
  exceptionEntry_ok (outcomeOf_eq_next h)

/-! The step. -/

theorem fetch_of_decode4 {s : State} {i : Instr}
    (hd : decode4 s.cfg.xbDecode (s.peek s.pc) (s.peek (s.pc + 1)) (s.peek (s.pc + 2)) (s.peek (s.pc + 3)) = some i)
    (h0 : s.Readable s.pc) (hr : s.Fetchable i.length) : fetch s = .ok i := by
  unfold fetch
  simp only [readRefusal_eq_none_iff.2 h0, hd, fetchRefusal_eq_none_iff.2 hr]

/-- All that a step can do when it answers a next state. -/
theorem step_cases {s t : State} (h : step s = .next t) :
    s.cfg.endAddr ≠ some s.pc ∧
    ((s.resetRequested = true ∧ resetEntry s = .ok t) ∨
     (s.resetRequested = false ∧ ∃ src, s.chosenSource = some src ∧ s.enabledSources ≠ [] ∧
        interruptEntry src s.afterChoice = .ok t) ∨
     (s.resetRequested = false ∧ ∃ i, fetch s.afterChoice = .ok i ∧ exec i s.afterChoice = .next t)) := by
  unfold step at h
  cases hb : s.boundary with
  | ended => simp [hb] at h
  | reset =>
    simp only [hb] at h
    unfold State.boundary at hb
    split at hb
    · cases hb
    · rename_i he
      split at hb
      · rename_i hr
        exact ⟨he, .inl ⟨hr, outcomeOf_eq_next h⟩⟩
      · split at hb
        · cases hb
        · split at hb <;> cases hb
  | interrupt src =>
    simp only [hb] at h
    unfold State.boundary at hb
    split at hb
    · cases hb
    · rename_i he
      split at hb
      · cases hb
      · rename_i hr
        split at hb
        · cases hb
        · rename_i hn
          split at hb
          · rename_i src' hs
            cases hb
            exact ⟨he, .inr (.inl ⟨by simpa using hr, src, hs, hn, outcomeOf_eq_next h⟩)⟩
          · cases hb
  | instruction =>
    simp only [hb] at h
    unfold State.boundary at hb
    split at hb
    · cases hb
    · rename_i he
      split at hb
      · cases hb
      · rename_i hr
        refine ⟨he, .inr (.inr ⟨by simpa using hr, ?_⟩)⟩
        unfold runInstruction at h
        split at h
        · cases h
        · rename_i i hf
          exact ⟨i, hf, h⟩

@[simp] theorem State.afterChoice_cfg (s : State) : s.afterChoice.cfg = s.cfg := by
  unfold State.afterChoice; split <;> rfl

@[simp] theorem State.afterChoice_mem (s : State) : s.afterChoice.mem = s.mem := by
  unfold State.afterChoice; split <;> rfl

@[simp] theorem State.afterChoice_ccr (s : State) : s.afterChoice.ccr = s.ccr := by
  unfold State.afterChoice; split <;> rfl

@[simp] theorem State.afterChoice_irq (s : State) : s.afterChoice.irq = s.irq := by
  unfold State.afterChoice; split <;> rfl

@[simp] theorem State.afterChoice_pc (s : State) : s.afterChoice.pc = s.pc := by
  unfold State.afterChoice; split <;> rfl

theorem State.afterChoice_of_noSource {s : State} (h : s.enabledSources = []) : s.afterChoice = s := by
  simp [State.afterChoice, h]

theorem State.Undisturbed.boundary_eq {s : State} (h : s.Undisturbed) : s.boundary = .instruction := by
  simp [State.boundary, h.notEnded, h.noReset, h.noSource]

/-- Undisturbed, a step fetches and executes. -/
theorem State.Undisturbed.step_eq {s : State} (h : s.Undisturbed) : step s = runInstruction s := by
  unfold step
  rw [h.boundary_eq, State.afterChoice_of_noSource h.noSource]

end Machine
end Sys2Proof
end

