-- ==== Sys2Proof/Laws/PerInstr.lean ====
section
/-! SUPPORT. Statements about every instruction as syntax, one lemma per constructor of `Instr`. -/

namespace Sys2Proof.Laws.EncodedLength

/-- The encoding has as many bytes as R67 gives the instruction, between 1 and 4 (R50). -/
def Statement (i : Instr) : Prop := (encode i).length = i.length ∧ 1 ≤ i.length ∧ i.length ≤ 4

theorem ldaaImm (ii : Byte) : Statement (.ldaaImm ii) := by
  refine ⟨rfl, ?_, ?_⟩ <;> exact Nat.le_of_ble_eq_true rfl

theorem ldaaDir (dd : Byte) : Statement (.ldaaDir dd) := by
  refine ⟨rfl, ?_, ?_⟩ <;> exact Nat.le_of_ble_eq_true rfl

theorem ldaaExt (hhll : Word) : Statement (.ldaaExt hhll) := by
  refine ⟨rfl, ?_, ?_⟩ <;> exact Nat.le_of_ble_eq_true rfl

theorem ldaaConst5 (base : Base) (off : Int) : Statement (.ldaaConst5 base off) := by
  refine ⟨rfl, ?_, ?_⟩ <;> exact Nat.le_of_ble_eq_true rfl

theorem ldaaAutoX (pre : Bool) (delta : Int) : Statement (.ldaaAutoX pre delta) := by
  refine ⟨rfl, ?_, ?_⟩ <;> exact Nat.le_of_ble_eq_true rfl

theorem ldaaAutoY (pre : Bool) (delta : Int) : Statement (.ldaaAutoY pre delta) := by
  refine ⟨rfl, ?_, ?_⟩ <;> exact Nat.le_of_ble_eq_true rfl

theorem ldaaAutoSP (pre : Bool) (delta : Int) : Statement (.ldaaAutoSP pre delta) := by
  refine ⟨rfl, ?_, ?_⟩ <;> exact Nat.le_of_ble_eq_true rfl

theorem ldaaAccA (base : Base) : Statement (.ldaaAccA base) := by
  refine ⟨rfl, ?_, ?_⟩ <;> exact Nat.le_of_ble_eq_true rfl

theorem ldaaAccB (base : Base) : Statement (.ldaaAccB base) := by
  refine ⟨rfl, ?_, ?_⟩ <;> exact Nat.le_of_ble_eq_true rfl

theorem ldaaAccD (base : Base) : Statement (.ldaaAccD base) := by
  refine ⟨rfl, ?_, ?_⟩ <;> exact Nat.le_of_ble_eq_true rfl

theorem ldaaConst9 (base : Base) (off : Int) : Statement (.ldaaConst9 base off) := by
  refine ⟨rfl, ?_, ?_⟩ <;> exact Nat.le_of_ble_eq_true rfl

theorem ldaaConst16 (base : Base) (off : Word) : Statement (.ldaaConst16 base off) := by
  refine ⟨rfl, ?_, ?_⟩ <;> exact Nat.le_of_ble_eq_true rfl

theorem ldaaIndD (base : Base) : Statement (.ldaaIndD base) := by
  refine ⟨rfl, ?_, ?_⟩ <;> exact Nat.le_of_ble_eq_true rfl

theorem ldaaInd16 (base : Base) (off : Word) : Statement (.ldaaInd16 base off) := by
  refine ⟨rfl, ?_, ?_⟩ <;> exact Nat.le_of_ble_eq_true rfl

theorem addaImm (ii : Byte) : Statement (.addaImm ii) := by
  refine ⟨rfl, ?_, ?_⟩ <;> exact Nat.le_of_ble_eq_true rfl

theorem addaDir (dd : Byte) : Statement (.addaDir dd) := by
  refine ⟨rfl, ?_, ?_⟩ <;> exact Nat.le_of_ble_eq_true rfl

theorem addaExt (hhll : Word) : Statement (.addaExt hhll) := by
  refine ⟨rfl, ?_, ?_⟩ <;> exact Nat.le_of_ble_eq_true rfl

theorem addaConst5 (base : Base) (off : Int) : Statement (.addaConst5 base off) := by
  refine ⟨rfl, ?_, ?_⟩ <;> exact Nat.le_of_ble_eq_true rfl

theorem addaAutoX (pre : Bool) (delta : Int) : Statement (.addaAutoX pre delta) := by
  refine ⟨rfl, ?_, ?_⟩ <;> exact Nat.le_of_ble_eq_true rfl

theorem addaAutoY (pre : Bool) (delta : Int) : Statement (.addaAutoY pre delta) := by
  refine ⟨rfl, ?_, ?_⟩ <;> exact Nat.le_of_ble_eq_true rfl

theorem addaAutoSP (pre : Bool) (delta : Int) : Statement (.addaAutoSP pre delta) := by
  refine ⟨rfl, ?_, ?_⟩ <;> exact Nat.le_of_ble_eq_true rfl

theorem addaAccA (base : Base) : Statement (.addaAccA base) := by
  refine ⟨rfl, ?_, ?_⟩ <;> exact Nat.le_of_ble_eq_true rfl

theorem addaAccB (base : Base) : Statement (.addaAccB base) := by
  refine ⟨rfl, ?_, ?_⟩ <;> exact Nat.le_of_ble_eq_true rfl

theorem addaAccD (base : Base) : Statement (.addaAccD base) := by
  refine ⟨rfl, ?_, ?_⟩ <;> exact Nat.le_of_ble_eq_true rfl

theorem addaConst9 (base : Base) (off : Int) : Statement (.addaConst9 base off) := by
  refine ⟨rfl, ?_, ?_⟩ <;> exact Nat.le_of_ble_eq_true rfl

theorem addaConst16 (base : Base) (off : Word) : Statement (.addaConst16 base off) := by
  refine ⟨rfl, ?_, ?_⟩ <;> exact Nat.le_of_ble_eq_true rfl

theorem addaIndD (base : Base) : Statement (.addaIndD base) := by
  refine ⟨rfl, ?_, ?_⟩ <;> exact Nat.le_of_ble_eq_true rfl

theorem addaInd16 (base : Base) (off : Word) : Statement (.addaInd16 base off) := by
  refine ⟨rfl, ?_, ?_⟩ <;> exact Nat.le_of_ble_eq_true rfl

theorem staaDir (dd : Byte) : Statement (.staaDir dd) := by
  refine ⟨rfl, ?_, ?_⟩ <;> exact Nat.le_of_ble_eq_true rfl

theorem staaExt (hhll : Word) : Statement (.staaExt hhll) := by
  refine ⟨rfl, ?_, ?_⟩ <;> exact Nat.le_of_ble_eq_true rfl

theorem staaConst5 (base : Base) (off : Int) : Statement (.staaConst5 base off) := by
  refine ⟨rfl, ?_, ?_⟩ <;> exact Nat.le_of_ble_eq_true rfl

theorem staaAutoX (pre : Bool) (delta : Int) : Statement (.staaAutoX pre delta) := by
  refine ⟨rfl, ?_, ?_⟩ <;> exact Nat.le_of_ble_eq_true rfl

theorem staaAutoY (pre : Bool) (delta : Int) : Statement (.staaAutoY pre delta) := by
  refine ⟨rfl, ?_, ?_⟩ <;> exact Nat.le_of_ble_eq_true rfl

theorem staaAutoSP (pre : Bool) (delta : Int) : Statement (.staaAutoSP pre delta) := by
  refine ⟨rfl, ?_, ?_⟩ <;> exact Nat.le_of_ble_eq_true rfl

theorem staaAccA (base : Base) : Statement (.staaAccA base) := by
  refine ⟨rfl, ?_, ?_⟩ <;> exact Nat.le_of_ble_eq_true rfl

theorem staaAccB (base : Base) : Statement (.staaAccB base) := by
  refine ⟨rfl, ?_, ?_⟩ <;> exact Nat.le_of_ble_eq_true rfl

theorem staaAccD (base : Base) : Statement (.staaAccD base) := by
  refine ⟨rfl, ?_, ?_⟩ <;> exact Nat.le_of_ble_eq_true rfl

theorem staaConst9 (base : Base) (off : Int) : Statement (.staaConst9 base off) := by
  refine ⟨rfl, ?_, ?_⟩ <;> exact Nat.le_of_ble_eq_true rfl

theorem staaConst16 (base : Base) (off : Word) : Statement (.staaConst16 base off) := by
  refine ⟨rfl, ?_, ?_⟩ <;> exact Nat.le_of_ble_eq_true rfl

theorem staaIndD (base : Base) : Statement (.staaIndD base) := by
  refine ⟨rfl, ?_, ?_⟩ <;> exact Nat.le_of_ble_eq_true rfl

theorem staaInd16 (base : Base) (off : Word) : Statement (.staaInd16 base off) := by
  refine ⟨rfl, ?_, ?_⟩ <;> exact Nat.le_of_ble_eq_true rfl

theorem stabDir (dd : Byte) : Statement (.stabDir dd) := by
  refine ⟨rfl, ?_, ?_⟩ <;> exact Nat.le_of_ble_eq_true rfl

theorem stabExt (hhll : Word) : Statement (.stabExt hhll) := by
  refine ⟨rfl, ?_, ?_⟩ <;> exact Nat.le_of_ble_eq_true rfl

theorem stabConst5 (base : Base) (off : Int) : Statement (.stabConst5 base off) := by
  refine ⟨rfl, ?_, ?_⟩ <;> exact Nat.le_of_ble_eq_true rfl

theorem stabAutoX (pre : Bool) (delta : Int) : Statement (.stabAutoX pre delta) := by
  refine ⟨rfl, ?_, ?_⟩ <;> exact Nat.le_of_ble_eq_true rfl

theorem stabAutoY (pre : Bool) (delta : Int) : Statement (.stabAutoY pre delta) := by
  refine ⟨rfl, ?_, ?_⟩ <;> exact Nat.le_of_ble_eq_true rfl

theorem stabAutoSP (pre : Bool) (delta : Int) : Statement (.stabAutoSP pre delta) := by
  refine ⟨rfl, ?_, ?_⟩ <;> exact Nat.le_of_ble_eq_true rfl

theorem stabAccA (base : Base) : Statement (.stabAccA base) := by
  refine ⟨rfl, ?_, ?_⟩ <;> exact Nat.le_of_ble_eq_true rfl

theorem stabAccB (base : Base) : Statement (.stabAccB base) := by
  refine ⟨rfl, ?_, ?_⟩ <;> exact Nat.le_of_ble_eq_true rfl

theorem stabAccD (base : Base) : Statement (.stabAccD base) := by
  refine ⟨rfl, ?_, ?_⟩ <;> exact Nat.le_of_ble_eq_true rfl

theorem stabConst9 (base : Base) (off : Int) : Statement (.stabConst9 base off) := by
  refine ⟨rfl, ?_, ?_⟩ <;> exact Nat.le_of_ble_eq_true rfl

theorem stabConst16 (base : Base) (off : Word) : Statement (.stabConst16 base off) := by
  refine ⟨rfl, ?_, ?_⟩ <;> exact Nat.le_of_ble_eq_true rfl

theorem stabIndD (base : Base) : Statement (.stabIndD base) := by
  refine ⟨rfl, ?_, ?_⟩ <;> exact Nat.le_of_ble_eq_true rfl

theorem stabInd16 (base : Base) (off : Word) : Statement (.stabInd16 base off) := by
  refine ⟨rfl, ?_, ?_⟩ <;> exact Nat.le_of_ble_eq_true rfl

theorem inca : Statement .inca := by
  refine ⟨rfl, ?_, ?_⟩ <;> exact Nat.le_of_ble_eq_true rfl

theorem clrb : Statement .clrb := by
  refine ⟨rfl, ?_, ?_⟩ <;> exact Nat.le_of_ble_eq_true rfl

theorem decb : Statement .decb := by
  refine ⟨rfl, ?_, ?_⟩ <;> exact Nat.le_of_ble_eq_true rfl

theorem lsra : Statement .lsra := by
  refine ⟨rfl, ?_, ?_⟩ <;> exact Nat.le_of_ble_eq_true rfl

theorem asra : Statement .asra := by
  refine ⟨rfl, ?_, ?_⟩ <;> exact Nat.le_of_ble_eq_true rfl

theorem swi : Statement .swi := by
  refine ⟨rfl, ?_, ?_⟩ <;> exact Nat.le_of_ble_eq_true rfl

end Sys2Proof.Laws.EncodedLength
end

