-- ==== Sys2Proof/Tests/Slice0.lean ====
section
/-! SUPPORT. Tests. Expected results come from the spec: the encodings of 30_encoding.md R53, R55, R70 and of
95_test_vectors.md 1.1, and the vectors of 95_test_vectors.md section 2, which are computed from the rules by hand. After
them, for every statement with premises, a concrete state that meets them. -/

open Sys2Proof Sys2Proof.Machine Sys2Proof.Statements

namespace Sys2Proof.Tests

set_option maxRecDepth 4000

/-- The state after reset with pc = `$4000` and the given bytes in memory. -/
def load (cells : List (Word × Byte)) : State :=
  cells.foldl (fun s c => s.poke c.1 c.2) (State.reset.setPc 0x4000)

/-- The CCR from its byte, as the vectors write it. -/
def withCcr (s : State) (v : Byte) : State := s.setCcr (Ccr.ofByte v)

/-- What the decoder reads with `XB_DECODE` at its default. -/
abbrev reads (bytes : List Byte) : Decoded := decode defaultXB bytes

/-- What a test looks at: A, the CCR byte and pc. -/
def seeA (r : Result) : Option (Byte × Byte × Word) :=
  match r with
  | .next t => some (t.a, t.ccr.toByte, t.pc)
  | .fault _ => none
  | .refused _ => none

/-- What a test looks at: B, the CCR byte and pc. -/
def seeB (r : Result) : Option (Byte × Byte × Word) :=
  match r with
  | .next t => some (t.b, t.ccr.toByte, t.pc)
  | .fault _ => none
  | .refused _ => none

/-- What a test looks at: one byte of memory, the CCR byte and pc. -/
def seeM (k : Word) (r : Result) : Option (Byte × Byte × Word) :=
  match r with
  | .next t => some (t.peek k, t.ccr.toByte, t.pc)
  | .fault _ => none
  | .refused _ => none

/-! ## Well-formedness: an ill-formed term for each check -/

theorem test_wf_const5_refused : ¬ (Instr.ldaaConst5 .x 16).WellFormed ∧ ¬ (Instr.stabConst5 .pc (-17)).WellFormed := by
  decide

theorem test_wf_const9_refused : ¬ (Instr.addaConst9 .y 256).WellFormed ∧ ¬ (Instr.staaConst9 .sp (-257)).WellFormed := by
  decide

theorem test_wf_auto_refused :
    ¬ (Instr.ldaaAutoX true 0).WellFormed ∧ ¬ (Instr.staaAutoY false 9).WellFormed ∧
    ¬ (Instr.stabAutoSP true (-9)).WellFormed := by decide

/-- Premise of `DecodeOfEncodeIsTheInstruction` at the ends of every range. -/
theorem test_wf_accepted :
    (Instr.ldaaConst5 .pc 15).WellFormed ∧ (Instr.staaConst5 .x (-16)).WellFormed ∧
    (Instr.stabConst9 .sp 255).WellFormed ∧ (Instr.addaConst9 .y (-256)).WellFormed ∧
    (Instr.ldaaAutoX true 1).WellFormed ∧ (Instr.addaAutoY false 8).WellFormed ∧
    (Instr.staaAutoSP true (-8)).WellFormed ∧ (Instr.stabAutoSP false (-1)).WellFormed ∧ Instr.swi.WellFormed := by
  decide

/-! ## Decoding: every constructor from bytes written out from R53 and R55 -/

/-- LDAA: 86 ii, 96 dd, B6 hh ll, A6 xb, A6 xb ff, A6 xb ee ff (R80), xb from R55 and R70. -/
theorem test_decode_ldaa :
    reads [0x86, 0x3A] = .instruction (.ldaaImm 0x3A) [] ∧ reads [0x96, 0x40] = .instruction (.ldaaDir 0x40) [] ∧
    reads [0xB6, 0x10, 0x00] = .instruction (.ldaaExt 0x1000) [] ∧
    reads [0xA6, 0x1F] = .instruction (.ldaaConst5 .x (-1)) [] ∧
    reads [0xA6, 0x38] = .instruction (.ldaaAutoX false (-8)) [] ∧
    reads [0xA6, 0x67] = .instruction (.ldaaAutoY true 8) [] ∧
    reads [0xA6, 0xB0] = .instruction (.ldaaAutoSP false 1) [] ∧
    reads [0xA6, 0xE4] = .instruction (.ldaaAccA .x) [] ∧ reads [0xA6, 0xED] = .instruction (.ldaaAccB .y) [] ∧
    reads [0xA6, 0xF6] = .instruction (.ldaaAccD .sp) [] ∧
    reads [0xA6, 0xE0, 0xFF] = .instruction (.ldaaConst9 .x 255) [] ∧
    reads [0xA6, 0xE1, 0x00] = .instruction (.ldaaConst9 .x (-256)) [] ∧
    reads [0xA6, 0xF2, 0x12, 0x34] = .instruction (.ldaaConst16 .sp 0x1234) [] ∧
    reads [0xA6, 0xEF] = .instruction (.ldaaIndD .y) [] ∧
    reads [0xA6, 0xFB, 0x00, 0x10] = .instruction (.ldaaInd16 .pc 0x0010) [] := by decide

/-- ADDA: 8B ii, 9B dd, BB hh ll, AB xb, AB xb ff, AB xb ee ff (R90). -/
theorem test_decode_adda :
    reads [0x8B, 0x5C] = .instruction (.addaImm 0x5C) [] ∧ reads [0x9B, 0x40] = .instruction (.addaDir 0x40) [] ∧
    reads [0xBB, 0x12, 0x34] = .instruction (.addaExt 0x1234) [] ∧
    reads [0xAB, 0x50] = .instruction (.addaConst5 .y (-16)) [] ∧
    reads [0xAB, 0x20] = .instruction (.addaAutoX true 1) [] ∧
    reads [0xAB, 0x7F] = .instruction (.addaAutoY false (-1)) [] ∧
    reads [0xAB, 0xA8] = .instruction (.addaAutoSP true (-8)) [] ∧
    reads [0xAB, 0xFC] = .instruction (.addaAccA .pc) [] ∧ reads [0xAB, 0xE5] = .instruction (.addaAccB .x) [] ∧
    reads [0xAB, 0xEE] = .instruction (.addaAccD .y) [] ∧
    reads [0xAB, 0xF9, 0xFE] = .instruction (.addaConst9 .pc (-2)) [] ∧
    reads [0xAB, 0xE2, 0xFF, 0x00] = .instruction (.addaConst16 .x 0xFF00) [] ∧
    reads [0xAB, 0xF7] = .instruction (.addaIndD .sp) [] ∧
    reads [0xAB, 0xEB, 0x80, 0x01] = .instruction (.addaInd16 .y 0x8001) [] := by decide

/-- STAA: 5A dd, 7A hh ll, 6A xb, 6A xb ff, 6A xb ee ff (R81). -/
theorem test_decode_staa :
    reads [0x5A, 0x40] = .instruction (.staaDir 0x40) [] ∧ reads [0x7A, 0x10, 0x00] = .instruction (.staaExt 0x1000) [] ∧
    reads [0x6A, 0xC2] = .instruction (.staaConst5 .pc 2) [] ∧
    reads [0x6A, 0x27] = .instruction (.staaAutoX true 8) [] ∧
    reads [0x6A, 0x70] = .instruction (.staaAutoY false 1) [] ∧
    reads [0x6A, 0xAF] = .instruction (.staaAutoSP true (-1)) [] ∧
    reads [0x6A, 0xF4] = .instruction (.staaAccA .sp) [] ∧ reads [0x6A, 0xFD] = .instruction (.staaAccB .pc) [] ∧
    reads [0x6A, 0xE6] = .instruction (.staaAccD .x) [] ∧
    reads [0x6A, 0xE9, 0xEC] = .instruction (.staaConst9 .y (-20)) [] ∧
    reads [0x6A, 0xFA, 0x00, 0x01] = .instruction (.staaConst16 .pc 0x0001) [] ∧
    reads [0x6A, 0xE7] = .instruction (.staaIndD .x) [] ∧
    reads [0x6A, 0xF3, 0x00, 0x02] = .instruction (.staaInd16 .sp 0x0002) [] := by decide

/-- STAB: 5B dd, 7B hh ll, 6B xb, 6B xb ff, 6B xb ee ff (R82). -/
theorem test_decode_stab :
    reads [0x5B, 0x40] = .instruction (.stabDir 0x40) [] ∧ reads [0x7B, 0x20, 0x00] = .instruction (.stabExt 0x2000) [] ∧
    reads [0x6B, 0x8F] = .instruction (.stabConst5 .sp 15) [] ∧
    reads [0x6B, 0x2F] = .instruction (.stabAutoX true (-1)) [] ∧
    reads [0x6B, 0x68] = .instruction (.stabAutoY true (-8)) [] ∧
    reads [0x6B, 0xB7] = .instruction (.stabAutoSP false 8) [] ∧
    reads [0x6B, 0xEC] = .instruction (.stabAccA .y) [] ∧ reads [0x6B, 0xF5] = .instruction (.stabAccB .sp) [] ∧
    reads [0x6B, 0xFE] = .instruction (.stabAccD .pc) [] ∧
    reads [0x6B, 0xF0, 0x80] = .instruction (.stabConst9 .sp 128) [] ∧
    reads [0x6B, 0xEA, 0xAB, 0xCD] = .instruction (.stabConst16 .y 0xABCD) [] ∧
    reads [0x6B, 0xFF] = .instruction (.stabIndD .pc) [] ∧
    reads [0x6B, 0xE3, 0x00, 0x10] = .instruction (.stabInd16 .x 0x0010) [] := by decide

/-- The inherent opcodes (R53); the bytes after the instruction are left. -/
theorem test_decode_inherent :
    reads [0x42, 0x99] = .instruction .inca [0x99] ∧ reads [0xC7] = .instruction .clrb [] ∧
    reads [0x53] = .instruction .decb [] ∧ reads [0x44] = .instruction .lsra [] ∧
    reads [0x47] = .instruction .asra [] ∧ reads [0x3F] = .instruction .swi [] := by decide

/-- R68: a byte outside the table, and bytes that end too early. -/
theorem test_decode_rejected :
    reads [0x00, 0x01] = .rejected (.opcodeNotInSource 0x00) ∧ reads [0x87] = .rejected (.opcodeNotInSource 0x87) ∧
    reads [0xA6, 0xE2, 0x12] = .rejected .truncated ∧ reads [] = .rejected .truncated := by decide

/-- The opcode table's numbering: `A6 F2 12 34` has byte 0 in bits 7..0. -/
theorem test_decode_table_word :
    decodeTableWord 32 0x3412F2A6 = some (.ldaaConst16 .sp 0x1234) ∧ decodeTableWord 8 0x3F = some .swi ∧
    decodeTableWord 8 0x00 = none := by decide

/-- R5, R72: another `XB_DECODE` gives a postbyte another sub-mode, here `$00` as a 16-bit offset from Y, and leaves the
others. -/
def otherXB : XbTable := [(0x00, .const16 .y)]

theorem test_decode_other_table :
    decode otherXB [0xA6, 0x00, 0x12, 0x34] = .instruction (.ldaaConst16 .y 0x1234) [] ∧
    reads [0xA6, 0x00, 0x12, 0x34] = .instruction (.ldaaConst5 .x 0) [0x12, 0x34] ∧
    decode otherXB [0xA6, 0x01] = .instruction (.ldaaConst5 .x 1) [] := by decide

/-! ## One step of each instruction (95_test_vectors.md section 2) -/

/-- LDAA -1,X: `$80` from `$1FFF`, ccr `$D8`. -/
theorem test_ldaa_negative_offset :
    seeA (step (withCcr { load [(0x4000, 0xA6), (0x4001, 0x1F), (0x1FFF, 0x80)] with x := 0x2000 } 0xD0)) =
      some (0x80, 0xD8, 0x4002) := by decide

/-- LDAA [$0010,X]: the pointer at `$2011` is `$2003`. -/
theorem test_ldaa_indirect :
    seeA (step (withCcr { load [(0x4000, 0xA6), (0x4001, 0xE3), (0x4002, 0x00), (0x4003, 0x10),
      (0x2011, 0x20), (0x2012, 0x03), (0x2003, 0xF0)] with x := 0x2001 } 0xD0)) = some (0xF0, 0xD8, 0x4004) := by decide

/-- STAA $1000 with A = `$00`, ccr `$D3`: V cleared, C kept. -/
theorem test_staa_keeps_carry :
    seeM 0x1000 (step (withCcr { load [(0x4000, 0x7A), (0x4001, 0x10), (0x4002, 0x00)] with a := 0x00 } 0xD3)) =
      some (0x00, 0xD5, 0x4003) := by decide

/-- STAA 1,-SP: SP becomes `$2FFF` and the byte is stored there. -/
theorem test_staa_pre_decrement :
    seeM 0x2FFF (step (withCcr { load [(0x4000, 0x6A), (0x4001, 0xAF)] with a := 0x33, sp := 0x3000 } 0xD0)) =
      some (0x33, 0xD0, 0x4002) := by decide

/-- STAB B,Y: `$10` at `$2110`. -/
theorem test_stab_accumulator_offset :
    seeM 0x2110 (step (withCcr { load [(0x4000, 0x6B), (0x4001, 0xED)] with b := 0x10, y := 0x2100 } 0xD0)) =
      some (0x10, 0xD0, 0x4002) := by decide

/-- STAB $2000 with B = `$FF`: N set. -/
theorem test_stab_negative :
    seeM 0x2000 (step (withCcr { load [(0x4000, 0x7B), (0x4001, 0x20), (0x4002, 0x00)] with b := 0xFF } 0xD0)) =
      some (0xFF, 0xD8, 0x4003) := by decide

/-- ADDA of `$3A` and `$5C`: H and V, and the old C is overwritten. -/
theorem test_adda_half_carry_and_overflow :
    seeA (step (withCcr { load [(0x4000, 0x8B), (0x4001, 0x5C)] with a := 0x3A } 0xD1)) = some (0x96, 0xFA, 0x4002) := by
  decide

/-- ADDA of `$80` and `$80`: Z, V and C without H. -/
theorem test_adda_carry_and_zero :
    seeA (step (withCcr { load [(0x4000, 0x8B), (0x4001, 0x80)] with a := 0x80 } 0xD1)) = some (0x00, 0xD7, 0x4002) := by
  decide

/-- INCA of `$7F`: V, C kept. -/
theorem test_inca_overflow :
    seeA (step (withCcr { load [(0x4000, 0x42)] with a := 0x7F } 0xD1)) = some (0x80, 0xDB, 0x4001) := by decide

/-- INCA of `$FF`: wraps to `$00`, C not set. -/
theorem test_inca_wraps :
    seeA (step (withCcr { load [(0x4000, 0x42)] with a := 0xFF } 0xD0)) = some (0x00, 0xD4, 0x4001) := by decide

/-- DECB of `$80`: V, C kept. -/
theorem test_decb_overflow :
    seeB (step (withCcr { load [(0x4000, 0x53)] with b := 0x80 } 0xD1)) = some (0x7F, 0xD3, 0x4001) := by decide

/-- DECB of `$00`: wraps to `$FF`, no borrow reported. -/
theorem test_decb_wraps :
    seeB (step (withCcr { load [(0x4000, 0x53)] with b := 0x00 } 0xD0)) = some (0xFF, 0xD8, 0x4001) := by decide

/-- CLRB with ccr `$FF`: S X H I kept. -/
theorem test_clrb_flags :
    seeB (step (withCcr { load [(0x4000, 0xC7)] with b := 0xFF } 0xFF)) = some (0x00, 0xF4, 0x4001) := by decide

/-- LSRA of `$81`. -/
theorem test_lsra_low_bit :
    seeA (step (withCcr { load [(0x4000, 0x44)] with a := 0x81 } 0xD0)) = some (0x40, 0xD3, 0x4001) := by decide

/-- ASRA of `$81`: N and C both set, so V clear. -/
theorem test_asra_odd_negative :
    seeA (step (withCcr { load [(0x4000, 0x47)] with a := 0x81 } 0xD0)) = some (0xC0, 0xD9, 0x4001) := by decide

/-- ASRA of `$80`: V is N xor C. -/
theorem test_asra_even_negative :
    seeA (step (withCcr { load [(0x4000, 0x47)] with a := 0x80 } 0xD0)) = some (0xC0, 0xDA, 0x4001) := by decide

/-- The SWI vector of 95_test_vectors.md 2.6, first row, before the step. -/
def swiStart : State :=
  withCcr { load [(0x4001, 0x3F), (0xFFF6, 0x50), (0xFFF7, 0x00)] with a := 0x13, pc := 0x4001 } 0xC1

/-- SWI: the nine bytes `C1 34 13 56 78 9A BC 40 02` from `$2FF7` on, in the state's own terms. -/
def swiSees (r : Result) : Option (List Byte × Word × Byte × Word) :=
  match r with
  | .next t => some ((frameAddresses 0x3000).map t.peek, t.sp, t.ccr.toByte, t.pc)
  | .fault _ => none
  | .refused _ => none

theorem test_swi_frame :
    swiSees (step swiStart) =
      some ([0xC1, 0x34, 0x13, 0x56, 0x78, 0x9A, 0xBC, 0x40, 0x02], 0x2FF7, 0xD1, 0x5000) := by decide

/-- SP = `$FFFF` and `$FFF8` are refused, SP = `$FFF6` is the nearest accepted. -/
theorem test_swi_over_vector :
    exec .swi { swiStart with sp := 0xFFFF } = .refused .frameOverVector ∧
    exec .swi { swiStart with sp := 0xFFF8 } = .refused .frameOverVector ∧
    (∃ t, exec .swi { swiStart with sp := 0xFFF6 } = .next t) :=
  ⟨rfl, rfl, _, execSwi_of_canEnter (entryRefusal_eq_none_iff.1 (by decide))⟩

/-- `LDAA #$7E` at `$FFFF`: the second byte is at `$0000` and pc wraps to `$0001`. -/
theorem test_fetch_wraps :
    seeA (step (withCcr { load [(0xFFFF, 0x86), (0x0000, 0x7E)] with pc := 0xFFFF } 0xD0)) = some (0x7E, 0xD0, 0x0001) := by
  decide

/-- `withFetchWord` stores the row's bytes where `step` fetches, also at the reset pc. -/
theorem test_with_fetch_word :
    seeA (step (State.reset.withFetchWord 16 0x5C86)) = some (0x5C, 0xD0, 0x0001) ∧
    seeA (step (State.reset.withFetchWord 8 0x42)) = some (0x13, 0xD0, 0x0000) := by decide

/-- R5, R134: a launch state that gives another `XB_DECODE` runs by it: `A6 00 12 34` loads from Y + `$1234`. -/
theorem test_step_other_table :
    seeA (step { load [(0x4000, 0xA6), (0x4001, 0x00), (0x4002, 0x12), (0x4003, 0x34), (0x3234, 0x7F)] with
      y := 0x2000, cfg := { Config.default with xbDecode := otherXB } }) = some (0x7F, 0xD0, 0x4004) := by decide

/-- With nothing placed the reset state fetches `$FF`, no opcode of the source. -/
theorem test_reset_step : step State.reset = .refused (.opcodeNotInSource 0xFF) := rfl

/-! ## Witnesses: the premises of the statements can be met -/

/-- `EncodeOfDecodeIsTheBytes`. -/
theorem witness_decode : reads [0xA6, 0xE0, 0xFF, 0x01] = .instruction (.ldaaConst9 .x 255) [0x01] := by decide

/-- `OpcodeMapHasTheTwentyBytes`, last clause: bytes next to those of the table. -/
theorem witness_other_opcode :
    ∀ b0 ∈ ([0x00, 0x3E, 0x40, 0xC6, 0xC8, 0xFF] : List Byte),
      b0 ∉ ([0x3F, 0x42, 0x44, 0x47, 0x53, 0x5A, 0x5B, 0x6A, 0x6B, 0x7A] : List Byte) ∧
      b0 ∉ ([0x7B, 0x86, 0x8B, 0x96, 0x9B, 0xA6, 0xAB, 0xB6, 0xBB, 0xC7] : List Byte) := by decide

/-- The SWI start state has the invariant. -/
theorem witness_inv : swiStart.Inv := by
  show Memory.wf _
  decide

theorem witness_undisturbed : swiStart.Undisturbed := ⟨by decide, by decide, by decide⟩

theorem default_readable {s : State} (h : s.cfg.memMap = []) (a : Word) : s.Readable a := by
  left
  simp [State.kindAt, h, kindIn]

/-- `StepExecutesTheDecodedInstruction`, `FetchReadsOnlyTheInstructionsBytes`: a state with an instruction at pc. -/
theorem witness_step :
    swiStart.Undisturbed ∧ decode swiStart.cfg.xbDecode swiStart.bytesAtPc = .instruction .swi [0xFF, 0xFF, 0xFF] ∧
    swiStart.Fetchable Instr.swi.length ∧
    decode swiStart.cfg.xbDecode [0x3F] = .instruction .swi [] ∧ swiStart.Fetchable ([0x3F] : List Byte).length ∧
    ∀ k b, ([0x3F] : List Byte)[k]? = some b → swiStart.peek (swiStart.pc + BitVec.ofNat 16 k) = b := by
  refine ⟨witness_undisturbed, by decide, fun k _ => default_readable (by decide) _, by decide,
    fun k _ => default_readable (by decide) _, ?_⟩
  intro k b h
  match k, h with
  | 0, h => cases h; decide
  | k + 1, h => cases h

/-- `UnlistedOpcodeByteIsRefused`: the reset state reads `$FF`. -/
theorem witness_unlisted :
    State.reset.Undisturbed ∧ State.reset.Readable State.reset.pc ∧
    ∀ b1 b2 b3, decodeForm State.reset.cfg.xbDecode (State.reset.peek State.reset.pc) b1 b2 b3 = none :=
  ⟨⟨by decide, by decide, by decide⟩, default_readable (by decide) _, fun _ _ _ => rfl⟩

/-- `RunEndsAtEndAddr`. -/
theorem witness_end :
    ({ State.reset with cfg := { Config.default with endAddr := some 0xFFFF } } : State).cfg.endAddr =
      some ({ State.reset with cfg := { Config.default with endAddr := some 0xFFFF } } : State).pc := by decide

/-- A state whose map has a region of every kind and whose program lies in `$4000`..`$40FF`. -/
def mapped : State :=
  { swiStart with
    cfg := { Config.default with
      memMap := [⟨⟨0x0000, 0x00FF⟩, .device⟩, ⟨⟨0x0100, 0x01FF⟩, .absent⟩, ⟨⟨0x0200, 0x02FF⟩, .readOnly⟩]
      codeRegion := [⟨0x4000, 0x40FF⟩] } }

/-- `LdaaLoadsTheOperandByte`, `AddaAddsTheOperandByte`: operands of every form, read-only memory among them. -/
theorem witness_can_load :
    mapped.CanLoad (.ext 0x02FF) ∧ mapped.CanLoad (.const5 .pc (-16)) ∧ mapped.CanLoad (.auto .sp true (-8)) ∧
    mapped.CanLoad (.accOff .y .d) ∧ mapped.CanLoad (.const9 .x 255) ∧ mapped.CanLoad (.const16 .pc 0x1000) ∧
    mapped.CanLoad (.indD .x) ∧ mapped.CanLoad (.ind16 .sp 0x0010) ∧ swiStart.CanLoad (.dir 0x40) := by
  refine ⟨?_, ?_, ?_, ?_, ?_, ?_, ?_, ?_, ?_⟩ <;> exact loadRefusal_eq_none_iff.1 (by decide)

/-- `StaaStoresA`, `StabStoresB`, third clause. -/
theorem witness_can_store :
    mapped.CanStore (.ext 0x4100) ∧ mapped.CanStore (.auto .x false 8) ∧ mapped.CanStore (.accOff .sp .a) ∧
    mapped.CanStore (.ind16 .y 0x0000) ∧ swiStart.CanStore (.dir 0xFF) := by
  refine ⟨?_, ?_, ?_, ?_, ?_⟩ <;> exact storeRefusal_eq_none_iff.1 (by decide)

theorem pointer_of_ext (s : State) (hhll : Word) : s.PointerReadable (.ext hhll) := fun _ h => nomatch h

/-- `StaaStoresA`, `StabStoresB`, fourth clause, and `OperandAccessesTheMapForbidsAreRefused`, each clause, at the ends of the
ranges. -/
theorem witness_map :
    (∀ hhll, mapped.PointerReadable (.ext hhll)) ∧
    mapped.kindAt (effectiveAddress (.ext 0x0100) (preModify (.ext 0x0100) mapped)) = .absent ∧
    mapped.kindAt (effectiveAddress (.ext 0x01FF) (preModify (.ext 0x01FF) mapped)) = .absent ∧
    mapped.kindAt (effectiveAddress (.ext 0x00FF) (preModify (.ext 0x00FF) mapped)) = .device ∧
    mapped.kindAt (effectiveAddress (.ext 0x0200) (preModify (.ext 0x0200) mapped)) = .readOnly ∧
    mapped.kindAt (effectiveAddress (.ext 0x4000) (preModify (.ext 0x4000) mapped)) = .plain ∧
    inCode mapped.cfg.codeRegion (effectiveAddress (.ext 0x4000) (preModify (.ext 0x4000) mapped)) = true ∧
    inCode mapped.cfg.codeRegion (effectiveAddress (.ext 0x40FF) (preModify (.ext 0x40FF) mapped)) = true ∧
    inCode mapped.cfg.codeRegion (effectiveAddress (.ext 0x4100) (preModify (.ext 0x4100) mapped)) = false :=
  ⟨pointer_of_ext mapped, by decide, by decide, by decide, by decide, by decide, by decide, by decide, by decide⟩

/-- `PointersTheMapForbidsAreRefused`: X + D = `$69AC`; the pointer at `$0100` or its second byte at `$0100` is absent, at
`$00FF` a device. -/
theorem witness_pointer :
    pointerAddress (.indD .x) (preModify (.indD .x) swiStart) = some 0x69AC ∧
    pointerAddress (.ind16 .sp 0xD100) (preModify (.ind16 .sp 0xD100) mapped) = some 0x0100 ∧
    WordReadForbidden mapped 0x0100 (.absentAddress 0x0100) ∧ WordReadForbidden mapped 0x00FF (.deviceAddress 0x00FF) ∧
    WordReadForbidden { mapped with cfg := { mapped.cfg with memMap := [⟨⟨0x0100, 0x01FF⟩, .absent⟩] } } 0x00FF
      (.absentAddress 0x0100) :=
  ⟨by decide, by decide, .inl (.inl ⟨by decide, rfl⟩), .inl (.inr ⟨by decide, rfl⟩),
    .inr ⟨.inl (by decide), .inl ⟨by decide, rfl⟩⟩⟩

theorem witness_can_enter_mapped : ∀ a ∈ frameAddresses mapped.sp, mapped.Writable a :=
  (entryRefusal_eq_none_iff.1 (by decide) : mapped.CanEnter mapped.cfg.swiVector).frameWritable

/-- A state that fetches from the device at `$0000`, and one whose `A6 E2 12 34` runs from `$FFFD` into it. -/
def fetching : State := { mapped with pc := 0x00FF }

def fetchingAcross : State :=
  { load [(0xFFFD, 0xA6), (0xFFFE, 0xE2), (0xFFFF, 0x12), (0x0000, 0x34)] with pc := 0xFFFD, cfg := mapped.cfg }

/-- `FetchesTheMapForbidsAreRefused`, both clauses: byte 0, and byte 3 of four. -/
theorem witness_fetch :
    fetching.Undisturbed ∧ ReadForbidden fetching fetching.pc (.deviceAddress 0x00FF) ∧ fetchingAcross.Undisturbed ∧
    decode fetchingAcross.cfg.xbDecode fetchingAcross.bytesAtPc = .instruction (.ldaaConst16 .x 0x1234) [] ∧
    3 < (Instr.ldaaConst16 .x 0x1234).length ∧
    (∀ j, j < 3 → fetchingAcross.Readable (fetchingAcross.pc + BitVec.ofNat 16 j)) ∧
    ReadForbidden fetchingAcross (fetchingAcross.pc + BitVec.ofNat 16 3) (.deviceAddress 0x0000) := by
  refine ⟨⟨by decide, by decide, by decide⟩, .inr ⟨by decide, rfl⟩, ⟨by decide, by decide, by decide⟩, by decide,
    by decide, ?_, .inr ⟨by decide, rfl⟩⟩
  intro j hj
  have : j = 0 ∨ j = 1 ∨ j = 2 := by omega
  rcases this with rfl | rfl | rfl <;> exact .inl (by decide)

/-- A state whose entry pushes from `sp` down. -/
def pushing (sp : Word) : State := { mapped with sp := sp }

/-- `EntriesTheMapForbidsAreRefused`, each clause: the frame covers the vector; its lowest byte (k = 9)
and its highest (k = 1) may not be written; the vector, or its second byte, may not be read. -/
theorem witness_entry :
    (swiStart.cfg.swiVector ∈ frameAddresses (pushing 0xFFF7).sp) ∧
    ((0xFFF6 : Word) ∉ frameAddresses (pushing 0x4108).sp ∧ (0xFFF6 : Word) + 1 ∉ frameAddresses (pushing 0x4108).sp) ∧
    WriteForbidden (pushing 0x4108) ((pushing 0x4108).sp - BitVec.ofNat 16 9) (.storeIntoCode 0x40FF) ∧
    WriteForbidden (pushing 0x0201) ((pushing 0x0201).sp - BitVec.ofNat 16 9) (.absentAddress 0x01F8) ∧
    (WriteForbidden (pushing 0x4001) ((pushing 0x4001).sp - BitVec.ofNat 16 1) (.storeIntoCode 0x4000) ∧
      ∀ j : Nat, 1 < j → j ≤ 9 → (pushing 0x4001).Writable ((pushing 0x4001).sp - BitVec.ofNat 16 j)) ∧
    (∀ a ∈ frameAddresses mapped.sp, mapped.Writable a) ∧
    ((0x0100 : Word) ∉ frameAddresses mapped.sp ∧ (0x0100 : Word) + 1 ∉ frameAddresses mapped.sp) ∧
    WordReadForbidden mapped 0x0100 (.absentAddress 0x0100) := by
  refine ⟨by decide, by decide, .inr (.inr ⟨by decide, by decide, rfl⟩), .inl (.inl ⟨by decide, rfl⟩),
    ⟨.inr (.inr ⟨by decide, by decide, rfl⟩), ?_⟩, witness_can_enter_mapped, by decide, .inl (.inl ⟨by decide, rfl⟩)⟩
  intro j h1 h9
  have : j = 2 ∨ j = 3 ∨ j = 4 ∨ j = 5 ∨ j = 6 ∨ j = 7 ∨ j = 8 ∨ j = 9 := by omega
  rcases this with rfl | rfl | rfl | rfl | rfl | rfl | rfl | rfl <;> exact writeRefusal_eq_none_iff.1 (by decide)

/-- `SwiStacksTheFrameAndVectors`, `UnimplementedOpcodeEntryIsTheSwiSequence`: the entry is admitted, with `CODE_REGION`
empty and not. -/
theorem witness_can_enter :
    swiStart.CanEnter swiStart.cfg.swiVector ∧ mapped.CanEnter mapped.cfg.swiVector ∧
    swiStart.CanEnter swiStart.cfg.unimplVector :=
  ⟨entryRefusal_eq_none_iff.1 (by decide), entryRefusal_eq_none_iff.1 (by decide), entryRefusal_eq_none_iff.1 (by decide)⟩

theorem witness_swi_next : ∃ t, exec .swi swiStart = .next t := ⟨_, execSwi_of_canEnter witness_can_enter.1⟩

/-- The frames, `OnlyTheListedInstructionsWrite`, `PcMovesPastTheInstruction`, `FlagsAreNoInputOfAnyInstructionButSwi` and
the flag statements: every mnemonic reaches a next state. -/
theorem witness_next :
    (∃ t, exec (.ldaaImm 0x80) swiStart = .next t) ∧ (∃ t, exec (.addaImm 0xFF) swiStart = .next t) ∧
    (∃ t, exec (Form.mem .ldaa (.ind16 .sp 0x0010)).toInstr mapped = .next t) ∧
    (∃ t, exec (Form.mem .adda (.ind16 .sp 0x0010)).toInstr mapped = .next t) ∧
    (∃ t, exec (Form.mem .staa (.auto .x false 8)).toInstr mapped = .next t) ∧
    (∃ t, exec (Form.mem .stab (.auto .x false 8)).toInstr mapped = .next t) ∧
    (∃ t, exec .inca swiStart = .next t) ∧ (∃ t, exec .clrb swiStart = .next t) ∧
    (∃ t, exec .decb swiStart = .next t) ∧ (∃ t, exec .lsra swiStart = .next t) ∧
    (∃ t, exec .asra swiStart = .next t) :=
  ⟨⟨_, rfl⟩, ⟨_, rfl⟩, ⟨_, loadA_of_canLoad witness_can_load.2.2.2.2.2.2.2.1⟩,
    ⟨_, addA_of_canLoad witness_can_load.2.2.2.2.2.2.2.1⟩, ⟨_, storeByte_of_canStore witness_can_store.2.1 _⟩,
    ⟨_, storeByte_of_canStore witness_can_store.2.1 _⟩, ⟨_, rfl⟩, ⟨_, rfl⟩, ⟨_, rfl⟩, ⟨_, rfl⟩, ⟨_, rfl⟩⟩

/-- `IndirectAddresses`, both clauses, each with a wrap past `$FFFF`: X = `$5678`, D = `$1334`. -/
theorem witness_indirect :
    (0x69AC : Word).toNat = (swiStart.x.toNat + (256 * swiStart.a.toNat + swiStart.b.toNat)) % 65536 ∧
    (0x2FFF : Word).toNat = (swiStart.sp.toNat + (0xFFFF : Word).toNat) % 65536 ∧
    (0x4006 : Word).toNat = (swiStart.pc.toNat + 4 + (0x0001 : Word).toNat) % 65536 := by decide

/-- `AutoFormsStepTheRegister`, each clause: SP stepped from `$3000` by -8 and by +8, and a step that wraps. -/
theorem witness_auto :
    ((0x2FF8 : Word).toNat : Int) = ((swiStart.index .sp).toNat + (-8)) % 65536 ∧
    ((0x3008 : Word).toNat : Int) = ((swiStart.index .sp).toNat + 8) % 65536 ∧
    ((0xFFFF : Word).toNat : Int) = ((({ swiStart with x := 0 } : State).index .x).toNat + (-1)) % 65536 ∧
    swiStart.Readable 0x2FF8 ∧ swiStart.Inv ∧ swiStart.Writable 0x2FF8 ∧ swiStart.Writable 0x3000 :=
  ⟨by decide, by decide, by decide, default_readable (by decide) _, witness_inv,
    writeRefusal_eq_none_iff.1 (by decide), writeRefusal_eq_none_iff.1 (by decide)⟩

/-- `SwiOverItsVectorOrTheProgramIsRefused`, both clauses at k = 1 and k = 9. -/
theorem witness_swi_refused :
    (({ swiStart with sp := 0xFFF7 } : State).sp - BitVec.ofNat 16 1 = swiStart.cfg.swiVector) ∧
    (({ swiStart with sp := 0x0000 } : State).sp - BitVec.ofNat 16 9 = swiStart.cfg.swiVector + 1) ∧
    inCode mapped.cfg.codeRegion (({ mapped with sp := 0x4001 } : State).sp - BitVec.ofNat 16 1) = true ∧
    inCode mapped.cfg.codeRegion (({ mapped with sp := 0x4108 } : State).sp - BitVec.ofNat 16 9) = true := by decide

/-- `HandlerReadsTheFrameThroughSp` and `NestedSwiStacksBelow`: two SWI in a row are admitted. -/
theorem witness_nested : swiStart.Inv ∧ ∃ t u, exec .swi swiStart = .next t ∧ exec .swi t = .next u := by
  have h : (enteredState (swiStart.pc + 1) swiStart.cfg.swiVector swiStart).CanEnter swiStart.cfg.swiVector :=
    entryRefusal_eq_none_iff.1 (by decide)
  exact ⟨witness_inv, _, _, execSwi_of_canEnter witness_can_enter.1, execSwi_of_canEnter h⟩

/-- A maskable and a non-maskable source, both requesting. -/
def maskableSource : IrqSource := ⟨0xFFF2, true, true⟩

def nonMaskableSource : IrqSource := ⟨0xFFF4, false, true⟩

/-- `MaskedRequestsTakeNothing`: a maskable source requests while I = 1. -/
theorem witness_masked :
    let s : State := { State.reset with irq := [maskableSource] }
    s.cfg.endAddr ≠ some s.pc ∧ s.resetRequested = false ∧ s.ccr.i = true ∧ ∀ src ∈ s.irq, src.maskable = true := by
  decide

/-- `OnlyEnabledSourcesAreTaken`: a source is enabled. -/
theorem witness_enabled :
    let s : State := { State.reset with irq := [maskableSource, nonMaskableSource] }
    s.cfg.endAddr ≠ some s.pc ∧ s.resetRequested = false ∧ s.enabledSources = [nonMaskableSource] := by decide

/-- A state in which an interrupt is taken, whatever the free choice is: enough sources, all alike. -/
def interrupted : State := { swiStart with irq := List.replicate (Config.interruptChoice 0 + 1) nonMaskableSource }

/-- `TakenInterruptEntersBeforeTheInstruction`. -/
theorem witness_interrupt :
    interrupted.boundary = .interrupt nonMaskableSource ∧ interrupted.Inv ∧
    interrupted.CanEnter nonMaskableSource.vector := by
  have he : interrupted.enabledSources = List.replicate (Config.interruptChoice 0 + 1) nonMaskableSource := by
    refine List.filter_eq_self.2 fun src h => ?_
    rw [List.eq_of_mem_replicate h]
    rfl
  have hc : interrupted.chosenSource = some nonMaskableSource := by
    show interrupted.enabledSources[Config.interruptChoice 0]? = _
    rw [he]
    simp
  have hn : interrupted.enabledSources ≠ [] := by
    rw [he]
    simp [List.replicate_succ]
  refine ⟨?_, witness_inv, ?_⟩
  · unfold State.boundary
    rw [if_neg (show ¬ interrupted.cfg.endAddr = some interrupted.pc from
        (by decide : ¬ swiStart.cfg.endAddr = some swiStart.pc)),
      if_neg (show ¬ interrupted.resetRequested = true from (by decide : ¬ swiStart.resetRequested = true)), if_neg hn, hc]
  · have h : swiStart.CanEnter nonMaskableSource.vector := entryRefusal_eq_none_iff.1 (by decide)
    exact ⟨h.1, h.2, h.3⟩

/-- `ResetVectorsAndStacksNothing`: a reset is requested in the middle of a run. -/
def resetting : State := { swiStart with resetRequested := true }

theorem witness_reset :
    resetting.cfg.endAddr ≠ some resetting.pc ∧ resetting.resetRequested = true ∧
    resetting.Readable resetting.cfg.resetVector ∧ resetting.Readable (resetting.cfg.resetVector + 1) :=
  ⟨by decide, by decide, default_readable (by decide) _, default_readable (by decide) _⟩

/-- `ResetVectorTheMapForbidsIsRefused`: the reset vector lies where nothing is. -/
theorem witness_reset_refused :
    let s : State := { mapped with resetRequested := true, cfg := { mapped.cfg with resetVector := 0x0100 } }
    s.cfg.endAddr ≠ some s.pc ∧ s.resetRequested = true ∧
    WordReadForbidden s s.cfg.resetVector (.absentAddress 0x0100) :=
  ⟨by decide, by decide, .inl (.inl ⟨by decide, rfl⟩)⟩

/-- The statements over every step (`MemoryStaysCanonical`, `InterruptMaskOnceSetStaysSet`, `SAndXFlagsChangeOnlyAtReset`,
`ProgramAndForbiddenBytesNeverChange`, `VariantChangesTimingAlone`): a step that writes memory, from a state with I set, a
program region and a forbidden region. -/
theorem witness_any_step :
    let s := withCcr mapped 0xD1
    s.Inv ∧ s.ccr.i = true ∧ s.resetRequested = false ∧ inCode s.cfg.codeRegion 0x4000 = true ∧
      s.kindAt 0x00FF ≠ .plain ∧ ∃ t, step s = .next t := by
  have hu : (withCcr mapped 0xD1).Undisturbed := ⟨by decide, by decide, by decide⟩
  have hf : fetch (withCcr mapped 0xD1) = .ok .swi := by decide
  have hc : (withCcr mapped 0xD1).CanEnter (withCcr mapped 0xD1).cfg.swiVector := entryRefusal_eq_none_iff.1 (by decide)
  have hs : step (withCcr mapped 0xD1) = exec .swi (withCcr mapped 0xD1) := by rw [hu.step_eq, runInstruction, hf]
  exact ⟨witness_inv, by decide, by decide, by decide, by decide, _, hs.trans (execSwi_of_canEnter hc)⟩

end Sys2Proof.Tests
end

section
/-! PROOFS. The encoding: what the table of R53 makes of byte 0. -/

namespace Sys2Proof

/-- A byte that is the key of no entry selects nothing. -/
theorem opcodeIn_eq_none {table : List (Byte × Opcode)} {b : Byte} (h : ∀ e ∈ table, b ≠ e.1) :
    opcodeIn table b = none := by
  induction table with
  | nil => rfl
  | cons e rest ih =>
    obtain ⟨hne, hrest⟩ := List.forall_mem_cons.1 h
    exact (if_neg hne).trans (ih hrest)

/-! The form that `decodeForm` reads, one equation per kind of entry that byte 0 selects. -/

section
variable {t : XbTable} {b0 b1 b2 b3 : Byte}

theorem decodeForm_of_none (h : opcodeOf b0 = none) : decodeForm t b0 b1 b2 b3 = none := by
  simp [decodeForm, h]

theorem decodeForm_of_inh {op : InhOp} (h : opcodeOf b0 = some (.inh op)) :
    decodeForm t b0 b1 b2 b3 = some (.inh op) := by
  simp [decodeForm, h]

theorem decodeForm_of_imm {op : ImmOp} (h : opcodeOf b0 = some (.imm op)) :
    decodeForm t b0 b1 b2 b3 = some (.imm op b1) := by
  simp [decodeForm, h]

theorem decodeForm_of_dir {op : MemOp} (h : opcodeOf b0 = some (.mem op .dir)) :
    decodeForm t b0 b1 b2 b3 = some (.mem op (.dir b1)) := by
  simp [decodeForm, h]

theorem decodeForm_of_ext {op : MemOp} (h : opcodeOf b0 = some (.mem op .ext)) :
    decodeForm t b0 b1 b2 b3 = some (.mem op (.ext (Word.ofBytes b1 b2))) := by
  simp [decodeForm, h]

theorem decodeForm_of_idx {op : MemOp} (h : opcodeOf b0 = some (.mem op .idx)) :
    decodeForm t b0 b1 b2 b3 = some (.mem op (indexedOperand (submodeOf t b1) b2 b3)) := by
  simp [decodeForm, h]

end

/-- The keys of the model's table are among the twenty bytes of R53, in the two halves in which the obligation lists them. -/
theorem opcodeTable_keys : ∀ e ∈ opcodeTable,
    e.1 ∈ ([0x3F, 0x42, 0x44, 0x47, 0x53, 0x5A, 0x5B, 0x6A, 0x6B, 0x7A] : List Byte) ∨
    e.1 ∈ ([0x7B, 0x86, 0x8B, 0x96, 0x9B, 0xA6, 0xAB, 0xB6, 0xBB, 0xC7] : List Byte) := by
  decide

/-- Settles O3: each row is the equation of its kind of entry, the table being read at a fixed byte; a byte outside both
halves is no key of the table. -/
theorem opcodeMapHasTheTwentyBytes : Obligations.OpcodeMapHasTheTwentyBytes := by
  unfold Obligations.OpcodeMapHasTheTwentyBytes
  refine ⟨fun t b1 b2 b3 => ?rows, fun _ => rfl, fun _ _ => rfl, fun _ _ => rfl, fun _ _ => rfl, fun _ _ _ => rfl,
    fun _ _ _ _ => rfl, fun _ _ _ => rfl, fun _ _ _ => rfl, fun _ _ _ => rfl, fun _ _ => rfl, fun _ _ _ => rfl,
    fun t b0 b1 b2 b3 hlow hhigh => ?others⟩
  case rows =>
    exact ⟨decodeForm_of_inh rfl, decodeForm_of_inh rfl, decodeForm_of_inh rfl, decodeForm_of_inh rfl,
      decodeForm_of_inh rfl, decodeForm_of_inh rfl, decodeForm_of_imm rfl, decodeForm_of_imm rfl,
      decodeForm_of_dir rfl, decodeForm_of_dir rfl, decodeForm_of_dir rfl, decodeForm_of_dir rfl,
      decodeForm_of_ext rfl, decodeForm_of_ext rfl, decodeForm_of_ext rfl, decodeForm_of_ext rfl,
      decodeForm_of_idx rfl, decodeForm_of_idx rfl, decodeForm_of_idx rfl, decodeForm_of_idx rfl⟩
  case others =>
    have hkey : ∀ e ∈ opcodeTable, b0 ≠ e.1 := by
      rintro e he rfl
      exact (opcodeTable_keys e he).elim hlow hhigh
    exact decodeForm_of_none (opcodeIn_eq_none hkey)

end Sys2Proof
end

section
/-! PROOFS. The loads and stores: the rows of a mnemonic with a memory operand, the flags of a moved byte, and where LDAA,
STAA and STAB complete and where a store is refused. -/

namespace Sys2Proof

open Machine Statements

/-! The rows of the opcode table: object code, length and Access Detail. -/

theorem encode_mem (op : MemOp) (m : MemOperand) :
    encode (Form.mem op m).toInstr = memOpcode op m.mode :: m.operandBytes :=
  Form.encode_toInstr (.mem op m)

theorem encode_mem_length (op : MemOp) (m : MemOperand) : (encode (Form.mem op m).toInstr).length = m.length := by
  rw [encode_mem]
  cases m <;> rfl

/-- The object code of R80, R81, R82 and R90, for whichever mnemonic: the mode selects byte 0 and the operand gives the rest. -/
theorem objectCode_mem (op : MemOp) :
    ObjectCode (fun m => (Form.mem op m).toInstr) (memOpcode op .dir) (memOpcode op .ext) (memOpcode op .idx) :=
  ⟨fun _ => encode_mem op _, fun _ => encode_mem op _, fun _ _ => ⟨_, encode_mem op _⟩, fun _ _ _ => ⟨_, encode_mem op _⟩,
    fun _ _ => ⟨_, encode_mem op _⟩, fun _ _ => ⟨_, _, encode_mem op _⟩, fun _ _ => ⟨_, encode_mem op _⟩,
    fun _ => ⟨_, encode_mem op _⟩, fun _ _ => ⟨_, encode_mem op _⟩⟩

theorem loadCycles_timingMode (v : Variant) (m : MemOperand) : loadCycles v (MemOperand.timingMode m) = loadStrings v m := by
  cases v <;> cases m <;> rfl

theorem storeCycles_timingMode (v : Variant) (m : MemOperand) : storeCycles v (MemOperand.timingMode m) = storeStrings v m := by
  cases v <;> cases m <;> rfl

theorem accessDetail_ldaa (v : Variant) (m : MemOperand) : accessDetail v (.ldaa m) = loadStrings v m := by
  rw [accessDetail, Form.form_toInstr]
  exact loadCycles_timingMode v m

theorem accessDetail_staa (v : Variant) (m : MemOperand) : accessDetail v (.staa m) = storeStrings v m := by
  rw [accessDetail, Form.form_toInstr]
  exact storeCycles_timingMode v m

theorem accessDetail_stab (v : Variant) (m : MemOperand) : accessDetail v (.stab m) = storeStrings v m := by
  rw [accessDetail, Form.form_toInstr]
  exact storeCycles_timingMode v m

/-- The model's flags of a moved byte (R83) are those the rules of the three mnemonics give. -/
theorem moveFlags_eq_movedFlags (v : Byte) (f : Ccr) : moveFlags v f = movedFlags v f := by
  rw [moveFlags, movedFlags, BitVec.msb_eq_getLsbD_last, beq_eq_decide]

/-! LDAA. -/

theorem loadImmA_eq (ii : Byte) (s : State) :
    loadImmA ii s = .next { s with a := ii, ccr := movedFlags ii s.ccr, pc := s.pc + 2 } := by
  rw [← moveFlags_eq_movedFlags]
  rfl

/-- LDAA writes A, the flags and pc over the state with the index register updated; flags and pc start from those before the
update, which leaves them alone. -/
theorem loadA_eq_of_canLoad {m : MemOperand} {s : State} (h : s.CanLoad m) :
    loadA m s = .next { postModify m (preModify m s) with
      a := s.peek (effectiveAddress m (preModify m s))
      ccr := movedFlags (s.peek (effectiveAddress m (preModify m s))) s.ccr
      pc := s.pc + BitVec.ofNat 16 m.length } := by
  rw [loadA_of_canLoad h, ← moveFlags_eq_movedFlags]
  simp [loadedA, State.setA, State.setCcr, State.advance, State.setPc]

/-! The stores, for whichever accumulator is stored. -/

theorem storeByte_eq_of_canStore {m : MemOperand} {s : State} (h : s.CanStore m) (v : Byte) :
    storeByte v m s = .next { postModify m ((preModify m s).poke (effectiveAddress m (preModify m s)) v) with
      ccr := movedFlags v s.ccr, pc := s.pc + BitVec.ofNat 16 m.length } := by
  rw [storeByte_of_canStore h, ← moveFlags_eq_movedFlags]
  simp [storedTo, State.setCcr, State.advance, State.setPc]

theorem storeByte_of_storeRefusal {m : MemOperand} {s : State} {r : Refusal} (h : storeRefusal m s = some r) (v : Byte) :
    storeByte v m s = .refused r := by
  rw [storeByte, storeOperand, h]

/-- Once its pointer may be read, a store is refused for its operand byte alone. -/
theorem storeRefusal_of_pointerReadable {m : MemOperand} {s : State} (h : s.PointerReadable m) :
    storeRefusal m s = writeRefusal s (effectiveAddress m (preModify m s)) := by
  rw [storeRefusal, pointerRefusal_eq_none_iff.2 h]

theorem writeRefusal_of_inCode {s : State} {a : Word} (hk : s.kindAt a = .plain)
    (hc : inCode s.cfg.codeRegion a = true) : writeRefusal s a = some (.storeIntoCode a) := by
  rw [writeRefusal, hk]
  exact if_pos hc

theorem storeByte_of_inCode {m : MemOperand} {s : State} (hp : s.PointerReadable m)
    (hk : s.kindAt (effectiveAddress m (preModify m s)) = .plain)
    (hc : inCode s.cfg.codeRegion (effectiveAddress m (preModify m s)) = true) (v : Byte) :
    storeByte v m s = .refused (.storeIntoCode (effectiveAddress m (preModify m s))) :=
  storeByte_of_storeRefusal ((storeRefusal_of_pointerReadable hp).trans (writeRefusal_of_inCode hk hc)) v

/-! The obligations. -/

/-- Settles O10: the rows are those of any memory mnemonic, and the meaning is `loadA`, or `loadImmA`, with the flags as the
rule writes them. -/
theorem ldaaLoadsTheOperandByte : Obligations.LdaaLoadsTheOperandByte := by
  unfold Obligations.LdaaLoadsTheOperandByte
  refine ⟨fun _ => rfl, objectCode_mem .ldaa, fun _ _ => rfl, accessDetail_ldaa, loadImmA_eq, fun m s h => ?_⟩
  rw [exec_toInstr, encode_mem_length]
  exact loadA_eq_of_canLoad h

/-- Settles O11: the meaning is `storeByte` of A. -/
theorem staaStoresA : Obligations.StaaStoresA := by
  unfold Obligations.StaaStoresA
  refine ⟨objectCode_mem .staa, accessDetail_staa, fun m s h => ?completes, fun m s hp hk hc => ?intoCode⟩
  case completes =>
    rw [exec_toInstr, encode_mem_length]
    exact storeByte_eq_of_canStore h s.a
  case intoCode =>
    rw [exec_toInstr]
    exact storeByte_of_inCode hp hk hc s.a

/-- Settles O12: the meaning is `storeByte` of B. -/
theorem stabStoresB : Obligations.StabStoresB := by
  unfold Obligations.StabStoresB
  refine ⟨objectCode_mem .stab, accessDetail_stab, fun m s h => ?completes, fun m s hp hk hc => ?intoCode⟩
  case completes =>
    rw [exec_toInstr, encode_mem_length]
    exact storeByte_eq_of_canStore h s.b
  case intoCode =>
    rw [exec_toInstr]
    exact storeByte_of_inCode hp hk hc s.b

end Sys2Proof
end

section
/-! PROOFS. ADDA, INCA, CLRB and DECB: the model's results and flags as the rules write them, and where each completes. -/

namespace Sys2Proof

open Machine Statements

/-! The results: the rules take the true sum modulo 256. -/

theorem addResult_eq (a m : Byte) : addResult a m = BitVec.ofNat 8 ((a.toNat + m.toNat) % 256) := by
  apply BitVec.eq_of_toNat_eq
  simp [addResult]

theorem add_one_eq_ofNat (a : Byte) : a + 1 = BitVec.ofNat 8 ((a.toNat + 1) % 256) := by
  apply BitVec.eq_of_toNat_eq
  simp

theorem sub_one_eq_ofNat (b : Byte) : b - 1 = BitVec.ofNat 8 ((b.toNat + 255) % 256) := by
  bv_omega

/-! The flags, N being bit 7 of the result and Z and V decided propositions. -/

theorem addFlags_eq_sumFlags (a m : Byte) (f : Ccr) : addFlags a m f = sumFlags a m f := by
  simp [addFlags, sumFlags, addResult_eq, BitVec.msb_eq_getLsbD_last, beq_eq_decide, bne]

theorem incFlags_eq (a : Byte) (f : Ccr) :
    incFlags a f = { f with n := (a + 1).getLsbD 7, z := decide (a + 1 = 0), v := decide (a = 0x7F) } := by
  rw [incFlags, BitVec.msb_eq_getLsbD_last, beq_eq_decide, beq_eq_decide]

theorem decFlags_eq (b : Byte) (f : Ccr) :
    decFlags b f = { f with n := (b - 1).getLsbD 7, z := decide (b - 1 = 0), v := decide (b = 0x80) } := by
  rw [decFlags, BitVec.msb_eq_getLsbD_last, beq_eq_decide, beq_eq_decide]

/-! ADDA. -/

theorem accessDetail_adda (v : Variant) (m : MemOperand) : accessDetail v (.adda m) = loadStrings v m := by
  rw [accessDetail, Form.form_toInstr]
  exact loadCycles_timingMode v m

theorem addImmA_eq (ii : Byte) (s : State) :
    addImmA ii s = .next { s with
      a := BitVec.ofNat 8 ((s.a.toNat + ii.toNat) % 256), ccr := sumFlags s.a ii s.ccr, pc := s.pc + 2 } := by
  rw [← addResult_eq, ← addFlags_eq_sumFlags]
  rfl

/-- The augend, the flags and pc are read after the index register is updated, which leaves them alone. -/
theorem addA_eq_of_canLoad {m : MemOperand} {s : State} (h : s.CanLoad m) :
    addA m s = .next { postModify m (preModify m s) with
      a := BitVec.ofNat 8 ((s.a.toNat + (s.peek (effectiveAddress m (preModify m s))).toNat) % 256)
      ccr := sumFlags s.a (s.peek (effectiveAddress m (preModify m s))) s.ccr
      pc := s.pc + BitVec.ofNat 16 m.length } := by
  rw [addA_of_canLoad h, ← addResult_eq, ← addFlags_eq_sumFlags]
  simp [addedA, State.setA, State.setCcr, State.advance, State.setPc]

/-! INCA and DECB. -/

theorem execInca_eq (s : State) :
    execInca s = .next { s with
      a := s.a + 1
      ccr := { s.ccr with n := (s.a + 1).getLsbD 7, z := decide (s.a + 1 = 0), v := decide (s.a = 0x7F) }
      pc := s.pc + 1 } := by
  rw [execInca, incFlags_eq]
  rfl

theorem execDecb_eq (s : State) :
    execDecb s = .next { s with
      b := s.b - 1
      ccr := { s.ccr with n := (s.b - 1).getLsbD 7, z := decide (s.b - 1 = 0), v := decide (s.b = 0x80) }
      pc := s.pc + 1 } := by
  rw [execDecb, decFlags_eq]
  rfl

/-! The obligations. -/

/-- Settles O13: the rows are those of any memory mnemonic, and the meaning is `addA`, or `addImmA`, with the sum and the
flags as the rule writes them. -/
theorem addaAddsTheOperandByte : Obligations.AddaAddsTheOperandByte := by
  unfold Obligations.AddaAddsTheOperandByte
  refine ⟨fun _ => rfl, objectCode_mem .adda, fun _ _ => rfl, accessDetail_adda, addImmA_eq, fun m s h => ?_⟩
  rw [exec_toInstr, encode_mem_length]
  exact addA_eq_of_canLoad h

/-- Settles O14: A plus one is the sum modulo 256, and the rest is `execInca_eq`. -/
theorem incaIncrementsA : Obligations.IncaIncrementsA := by
  unfold Obligations.IncaIncrementsA
  refine ⟨rfl, fun _ => rfl, fun s => ?_⟩
  rw [← add_one_eq_ofNat]
  exact execInca_eq s

/-- Settles O15: the result and the flags of CLRB are constants, so the meaning is the rule as it stands. -/
theorem clrbClearsB : Obligations.ClrbClearsB := by
  unfold Obligations.ClrbClearsB
  exact ⟨rfl, fun _ => rfl, fun _ => rfl⟩

/-- Settles O16: B minus one is B plus 255 modulo 256, and the rest is `execDecb_eq`. -/
theorem decbDecrementsB : Obligations.DecbDecrementsB := by
  unfold Obligations.DecbDecrementsB
  refine ⟨rfl, fun _ => rfl, fun s => ?_⟩
  rw [← sub_one_eq_ofNat]
  exact execDecb_eq s

end Sys2Proof
end

section
/-! PROOFS. LSRA and ASRA: the bits of a byte shifted right with a given bit 7, the flags as the rules write them, and where
each completes. -/

namespace Sys2Proof

open Machine

/-! The results: the upper seven bits of A below the bit shifted in. -/

theorem getLsbD_append_extractLsb'_of_lt (top : BitVec 1) (a : Byte) {k : Nat} (hk : k < 7) :
    (top ++ a.extractLsb' 1 7).getLsbD k = a.getLsbD (k + 1) := by
  rw [BitVec.getLsbD_append, if_pos hk, BitVec.getLsbD_extractLsb', decide_eq_true hk, Bool.true_and, Nat.add_comm]

theorem getLsbD_append_extractLsb'_seven (top : BitVec 1) (a : Byte) :
    (top ++ a.extractLsb' 1 7).getLsbD 7 = top.getLsbD 0 := by
  rw [BitVec.getLsbD_append, if_neg (Nat.lt_irrefl 7)]

theorem lsrResult_getLsbD_of_lt (a : Byte) {k : Nat} (hk : k < 7) : (lsrResult a).getLsbD k = a.getLsbD (k + 1) :=
  getLsbD_append_extractLsb'_of_lt _ a hk

theorem lsrResult_getLsbD_seven (a : Byte) : (lsrResult a).getLsbD 7 = false :=
  getLsbD_append_extractLsb'_seven _ a

theorem asrResult_getLsbD_of_lt (a : Byte) {k : Nat} (hk : k < 7) : (asrResult a).getLsbD k = a.getLsbD (k + 1) :=
  getLsbD_append_extractLsb'_of_lt _ a hk

theorem asrResult_getLsbD_seven (a : Byte) : (asrResult a).getLsbD 7 = a.getLsbD 7 := by
  rw [asrResult, getLsbD_append_extractLsb'_seven, BitVec.msb_eq_getLsbD_last]
  simp

/-! The flags, N being bit 7 of the result and Z a decided proposition. -/

theorem shiftFlags_eq (res : Byte) (out : Bool) (f : Ccr) :
    shiftFlags res out f =
      { f with n := res.getLsbD 7, z := decide (res = 0), v := res.getLsbD 7 ^^ out, c := out } := by
  rw [shiftFlags, BitVec.msb_eq_getLsbD_last, beq_eq_decide]

/-- Bit 7 of LSRA's result is zero, so N is cleared and V, N xor C, is C. -/
theorem lsrFlags_eq (a : Byte) (f : Ccr) :
    lsrFlags a f =
      { f with n := false, z := decide (lsrResult a = 0), v := a.getLsbD 0, c := a.getLsbD 0 } := by
  rw [lsrFlags, shiftFlags_eq, lsrResult_getLsbD_seven, Bool.false_xor]

/-! LSRA and ASRA. -/

theorem execLsra_eq (s : State) :
    execLsra s = .next { s with
      a := lsrResult s.a
      ccr := { s.ccr with
        n := false, z := decide (lsrResult s.a = 0), v := s.a.getLsbD 0, c := s.a.getLsbD 0 }
      pc := s.pc + 1 } := by
  rw [execLsra, lsrFlags_eq]
  rfl

theorem execAsra_eq (s : State) :
    execAsra s = .next { s with
      a := asrResult s.a
      ccr := { s.ccr with
        n := (asrResult s.a).getLsbD 7, z := decide (asrResult s.a = 0)
        v := (asrResult s.a).getLsbD 7 ^^ s.a.getLsbD 0, c := s.a.getLsbD 0 }
      pc := s.pc + 1 } := by
  rw [execAsra, asrFlags, shiftFlags_eq]
  rfl

/-! The obligations. -/

/-- Settles O17: the result is `lsrResult` of A, whose bits are known one by one, and the rest is `execLsra_eq`. -/
theorem lsraShiftsAZeroIn : Obligations.LsraShiftsAZeroIn := by
  unfold Obligations.LsraShiftsAZeroIn
  exact ⟨rfl, fun _ => rfl, fun s =>
    ⟨lsrResult s.a, fun _ => lsrResult_getLsbD_of_lt s.a, lsrResult_getLsbD_seven s.a, execLsra_eq s⟩⟩

/-- Settles O18: the result is `asrResult` of A, whose bits are known one by one, and the rest is `execAsra_eq`. -/
theorem asraShiftsAKeepingItsSign : Obligations.AsraShiftsAKeepingItsSign := by
  unfold Obligations.AsraShiftsAKeepingItsSign
  exact ⟨rfl, fun _ => rfl, fun s =>
    ⟨asrResult s.a, fun _ => asrResult_getLsbD_of_lt s.a, asrResult_getLsbD_seven s.a, execAsra_eq s⟩⟩

end Sys2Proof
end

section
/-! PROOFS. SWI: the state that an exception entry leaves, through any vector and with any return address, is the one that
`Entered` describes. -/

namespace Sys2Proof

open Machine Statements

/-- Each clause of the frame is one of the bytes of `frameBytes`. -/
theorem frameStacked_enteredState (ret vec : Word) {s : State} (hs : s.Inv) :
    FrameStacked ret s (enteredState ret vec s) := by
  have byteAt : ∀ (a : Word) (v : Byte), (a, v) ∈ frameBytes ret s → (enteredState ret vec s).peek a = v :=
    fun _ _ hc => enteredState_peek_frame ret vec s hs hc
  refine ⟨byteAt _ _ ?_, byteAt _ _ ?_, byteAt _ _ ?_, byteAt _ _ ?_, byteAt _ _ ?_, byteAt _ _ ?_, byteAt _ _ ?_,
    byteAt _ _ ?_, byteAt _ _ ?_⟩ <;> simp [frameBytes]

theorem entered_enteredState (ret vec : Word) {s : State} (hs : s.Inv) :
    Entered ret vec s (enteredState ret vec s) :=
  ⟨frameStacked_enteredState ret vec hs, fun _ ha => enteredState_peek_other ret vec s ha, rfl, rfl,
    s.peekWord_eq vec, rfl, rfl, rfl, rfl⟩

theorem sameOutside_enteredState (ret vec : Word) (s : State) : SameOutside s (enteredState ret vec s) :=
  ⟨rfl, rfl, rfl, rfl⟩

/-! The obligation. -/

/-- Settles O19: where the entry is admitted SWI reaches `enteredState` with the address after it as return address. -/
theorem swiStacksTheFrameAndVectors : Obligations.SwiStacksTheFrameAndVectors := by
  unfold Obligations.SwiStacksTheFrameAndVectors
  refine ⟨rfl, fun _ => rfl, fun s hs henter => ?_⟩
  exact ⟨enteredState (s.pc + 1) s.cfg.swiVector s, execSwi_of_canEnter henter, entered_enteredState _ _ hs,
    sameOutside_enteredState _ _ s⟩

end Sys2Proof
end

section
/-! PROOFS. The postbyte: `decodeXB` row by row of R55, and the postbyte of a sub-mode, which is its inverse. -/

namespace Sys2Proof

@[simp] theorem baseOf_field (base : Base) : baseOf base.field = base := by
  cases base <;> rfl

@[simp] theorem field_baseOf (rr : BitVec 2) : (baseOf rr).field = rr := by
  revert rr
  decide

/-! R55's three kinds of row. -/

theorem decodeXB_const5 (base : Base) (n : BitVec 5) : decodeXB (base.field ++ 0#1 ++ n) = .const5 base n.toInt := by
  have hbit : (base.field ++ 0#1 ++ n).getLsbD 5 = false := by
    rw [BitVec.getLsbD_append, if_neg (by decide), BitVec.getLsbD_append]
    rfl
  have hrr : (base.field ++ 0#1 ++ n).extractLsb' 6 2 = base.field := by
    rw [BitVec.extractLsb'_append_eq_of_le (by decide), BitVec.extractLsb'_append_eq_left]
  simp only [decodeXB, hbit, hrr, if_true, baseOf_field, BitVec.extractLsb'_append_eq_right]

theorem autoOrExtended_field (r : IndexReg) (pre : Bool) (delta : Int) (extended : Submode) :
    autoOrExtended r.field pre delta extended = .auto r pre delta := by
  cases r <;> rfl

theorem decodeXB_auto (r : IndexReg) (post : Bool) (n : BitVec 4) :
    decodeXB (r.field ++ 1#1 ++ BitVec.ofBool post ++ n) = .auto r (!post) (autoDelta n) := by
  have hbit : (r.field ++ 1#1 ++ BitVec.ofBool post ++ n).getLsbD 5 = true := by
    rw [BitVec.getLsbD_append, if_neg (by decide), BitVec.getLsbD_append, if_neg (by decide), BitVec.getLsbD_append]
    rfl
  have hpost : (r.field ++ 1#1 ++ BitVec.ofBool post ++ n).getLsbD 4 = post := by
    rw [BitVec.getLsbD_append, if_neg (by decide), BitVec.getLsbD_append, if_pos (by decide)]
    cases post <;> rfl
  have hrr : (r.field ++ 1#1 ++ BitVec.ofBool post ++ n).extractLsb' 6 2 = r.field := by
    rw [BitVec.extractLsb'_append_eq_of_le (by decide), BitVec.extractLsb'_append_eq_of_le (by decide),
      BitVec.extractLsb'_append_eq_left]
  simp only [decodeXB, hbit, hpost, hrr, Bool.true_eq_false, if_false, autoOrExtended_field,
    BitVec.extractLsb'_append_eq_right]

theorem decodeXB_extendedXB (base : Base) (sel : BitVec 3) :
    decodeXB (extendedXB base sel) = extendedSubmode base sel := by
  have hbit : (7#3 ++ base.field ++ sel).getLsbD 5 = true := by
    rw [BitVec.getLsbD_append, if_neg (by decide), BitVec.getLsbD_append]
    rfl
  have hrr : (7#3 ++ base.field ++ sel).extractLsb' 6 2 = 3 := by
    rw [BitVec.extractLsb'_append_eq_of_le (by decide), BitVec.extractLsb'_append_eq_of_le (by decide)]
    rfl
  have hbase : (7#3 ++ base.field ++ sel).extractLsb' 3 2 = base.field := by
    rw [BitVec.extractLsb'_append_eq_of_le (by decide), BitVec.extractLsb'_append_eq_right]
  simp only [extendedXB, decodeXB, hbit, hrr, hbase, Bool.true_eq_false, if_false, baseOf_field,
    BitVec.extractLsb'_append_eq_right]
  rfl

/-- Bit 3 of the four bits `nnnn` says whether they stand for a decrement. -/
theorem autoDelta_eq (n : BitVec 4) :
    autoDelta n = if n.toNat < 8 then (n.toNat : Int) + 1 else (n.toNat : Int) - 16 := by
  have hbit : n.getLsbD 3 = decide (8 ≤ n.toNat) := (BitVec.msb_eq_getLsbD_last n).symm.trans (BitVec.msb_eq_decide n)
  simp only [autoDelta, hbit, decide_eq_true_eq]
  split <;> split <;> omega

/-- Settles O4: every row of the table is one of the three kinds. -/
theorem postbytesSelectTheirSubmodes : Obligations.PostbytesSelectTheirSubmodes := by
  unfold Obligations.PostbytesSelectTheirSubmodes
  refine ⟨rfl, rfl, rfl, rfl, rfl, rfl, rfl, decodeXB_const5, fun r p n => ?auto, fun r s => ?const9, ?_, ?_, ?_, ?_,
    ?_, ?_⟩
  case auto => rw [decodeXB_auto, autoDelta_eq]
  case const9 =>
    have hrow : 7#3 ++ r.field ++ 0#2 ++ BitVec.ofBool s = extendedXB r (0#2 ++ BitVec.ofBool s) := by
      cases s <;> cases r <;> rfl
    rw [hrow, decodeXB_extendedXB]
    cases s <;> rfl
  all_goals exact fun r => decodeXB_extendedXB r _

/-! The offsets and the step as bits and as integers. -/

theorem offset5InRange_iff {off : Int} : offset5InRange off = true ↔ -16 ≤ off ∧ off ≤ 15 := by
  simp [offset5InRange]

theorem offset9InRange_iff {off : Int} : offset9InRange off = true ↔ -256 ≤ off ∧ off ≤ 255 := by
  simp [offset9InRange]

theorem toInt_ofInt_of_offset5InRange {off : Int} (h : offset5InRange off = true) : (BitVec.ofInt 5 off).toInt = off := by
  obtain ⟨hlo, hhi⟩ := offset5InRange_iff.1 h
  exact BitVec.toInt_ofInt_eq_self (by decide) hlo (Int.lt_add_one_iff.2 hhi)

theorem offset5InRange_toInt (n : BitVec 5) : offset5InRange n.toInt = true :=
  offset5InRange_iff.2 ⟨n.le_toInt, Int.lt_add_one_iff.1 n.toInt_lt⟩

theorem offset9Bits_offset9 (sign : Bool) (ff : Byte) : offset9Bits (offset9 sign ff) = BitVec.ofBool sign ++ ff :=
  BitVec.ofInt_toInt

/-- Nine bits are their top bit and the byte below it. -/
theorem ofBool_msb_append_setWidth (n : BitVec 9) : BitVec.ofBool n.msb ++ n.setWidth 8 = n := by
  apply BitVec.eq_of_getLsbD_eq
  intro i hi
  rw [BitVec.getLsbD_append, BitVec.getLsbD_setWidth, BitVec.msb_eq_getLsbD_last]
  by_cases h : i < 8
  · simp [h]
  · obtain rfl : i = 8 := by omega
    simp

theorem offset9_offset9Bits {off : Int} (h : offset9InRange off = true) :
    offset9 (offset9Bits off).msb ((offset9Bits off).setWidth 8) = off := by
  obtain ⟨hlo, hhi⟩ := offset9InRange_iff.1 h
  rw [offset9, ofBool_msb_append_setWidth]
  exact BitVec.toInt_ofInt_eq_self (by decide) hlo (Int.lt_add_one_iff.2 hhi)

theorem offset9InRange_offset9 (sign : Bool) (ff : Byte) : offset9InRange (offset9 sign ff) = true :=
  offset9InRange_iff.2 ⟨(BitVec.ofBool sign ++ ff).le_toInt, Int.lt_add_one_iff.1 (BitVec.ofBool sign ++ ff).toInt_lt⟩

theorem autoDelta_autoNibble {delta : Int} (h : autoStepInRange delta = true) : autoDelta (autoNibble delta) = delta := by
  simp only [autoStepInRange, Bool.or_eq_true, Bool.and_eq_true, decide_eq_true_eq] at h
  rcases h with ⟨hlo, hhi⟩ | ⟨hlo, hhi⟩
  · interval_cases delta <;> rfl
  · interval_cases delta <;> rfl

theorem autoNibble_autoDelta (n : BitVec 4) : autoNibble (autoDelta n) = n := by
  revert n
  decide

theorem autoStepInRange_autoDelta (n : BitVec 4) : autoStepInRange (autoDelta n) = true := by
  revert n
  decide

/-! The postbyte of a sub-mode. -/

/-- R55 read from right to left: the postbyte that selects a sub-mode. -/
def Submode.postbyte : Submode → Byte
  | .const5 base off => base.field ++ 0#1 ++ BitVec.ofInt 5 off
  | .auto r pre delta => r.field ++ 1#1 ++ BitVec.ofBool (!pre) ++ autoNibble delta
  | .const9 base sign => extendedXB base (0#2 ++ BitVec.ofBool sign)
  | .const16 base => extendedXB base 2
  | .ind16 base => extendedXB base 3
  | .accOff base acc => extendedXB base acc.select
  | .indD base => extendedXB base 7

theorem postbyte_extendedSubmode (base : Base) (sel : BitVec 3) :
    (extendedSubmode base sel).postbyte = extendedXB base sel := by
  revert sel
  cases base <;> decide

theorem extractLsb'_one {w : Nat} (v : BitVec w) (i : Nat) : v.extractLsb' i 1 = BitVec.ofBool (v.getLsbD i) := by
  apply BitVec.eq_of_getLsbD_eq
  intro j hj
  obtain rfl : j = 0 := by omega
  simp

theorem field_cases (rr : BitVec 2) : rr = 3 ∨ ∃ r : IndexReg, rr = r.field := by
  rcases (by decide : ∀ rr : BitVec 2, rr = 0 ∨ rr = 1 ∨ rr = 2 ∨ rr = 3) rr with rfl | rfl | rfl | rfl
  · exact .inr ⟨.x, rfl⟩
  · exact .inr ⟨.y, rfl⟩
  · exact .inr ⟨.sp, rfl⟩
  · exact .inl rfl

/-- Two adjoining fields of a byte are one field: the library's lemma with the lower field named. -/
theorem append_fields (xb : Byte) {hi len : Nat} (lo n : Nat) (h : hi = lo + n) :
    xb.extractLsb' hi len ++ xb.extractLsb' lo n = xb.extractLsb' lo (len + n) :=
  BitVec.extractLsb'_append_extractLsb'_eq_extractLsb' h

/-- R55 leaves no postbyte without a row. -/
theorem postbyte_cases (xb : Byte) :
    (∃ (base : Base) (n : BitVec 5), xb = base.field ++ 0#1 ++ n) ∨
    (∃ (r : IndexReg) (post : Bool) (n : BitVec 4), xb = r.field ++ 1#1 ++ BitVec.ofBool post ++ n) ∨
    (∃ (base : Base) (sel : BitVec 3), xb = extendedXB base sel) := by
  cases hbit : xb.getLsbD 5 with
  | false =>
    have hsplit : xb.extractLsb' 6 2 ++ xb.extractLsb' 5 1 ++ xb.extractLsb' 0 5 = xb := by
      rw [append_fields xb 5 1 rfl, append_fields xb 0 5 rfl]
      exact BitVec.extractLsb'_eq_self
    refine .inl ⟨baseOf (xb.extractLsb' 6 2), xb.extractLsb' 0 5, ?_⟩
    rw [extractLsb'_one, hbit] at hsplit
    rw [field_baseOf]
    exact hsplit.symm
  | true =>
    rcases field_cases (xb.extractLsb' 6 2) with hrr | ⟨r, hrr⟩
    · have hsplit : xb.extractLsb' 6 2 ++ xb.extractLsb' 5 1 ++ xb.extractLsb' 3 2 ++ xb.extractLsb' 0 3 = xb := by
        rw [append_fields xb 5 1 rfl, append_fields xb 3 2 rfl, append_fields xb 0 3 rfl]
        exact BitVec.extractLsb'_eq_self
      refine .inr (.inr ⟨baseOf (xb.extractLsb' 3 2), xb.extractLsb' 0 3, ?_⟩)
      rw [extractLsb'_one, hbit, hrr] at hsplit
      rw [extendedXB, field_baseOf]
      exact hsplit.symm
    · have hsplit : xb.extractLsb' 6 2 ++ xb.extractLsb' 5 1 ++ xb.extractLsb' 4 1 ++ xb.extractLsb' 0 4 = xb := by
        rw [append_fields xb 5 1 rfl, append_fields xb 4 1 rfl, append_fields xb 0 4 rfl]
        exact BitVec.extractLsb'_eq_self
      refine .inr (.inl ⟨r, xb.getLsbD 4, xb.extractLsb' 0 4, ?_⟩)
      rw [extractLsb'_one, extractLsb'_one, hbit, hrr] at hsplit
      exact hsplit.symm

/-- R55 gives no sub-mode a second postbyte: a postbyte is that of the sub-mode it selects. -/
theorem postbyte_decodeXB (xb : Byte) : (decodeXB xb).postbyte = xb := by
  rcases postbyte_cases xb with ⟨base, n, rfl⟩ | ⟨r, post, n, rfl⟩ | ⟨base, sel, rfl⟩
  · rw [decodeXB_const5, Submode.postbyte, BitVec.ofInt_toInt]
  · rw [decodeXB_auto, Submode.postbyte, Bool.not_not, autoNibble_autoDelta]
  · rw [decodeXB_extendedXB, postbyte_extendedSubmode]

/-! The operand of an indexed form and its bytes. -/

theorem indexedOperand_mode (sub : Submode) (b2 b3 : Byte) : (indexedOperand sub b2 b3).mode = .idx := by
  cases sub <;> rfl

/-- The bytes of an indexed operand are the postbyte and as many of the two bytes after it as its length says. -/
theorem operandBytes_indexedOperand (sub : Submode) (b2 b3 : Byte) :
    (indexedOperand sub b2 b3).operandBytes = [sub.postbyte, b2, b3].take ((indexedOperand sub b2 b3).length - 1) := by
  cases sub with
  | const9 base sign =>
    have hmsb : (BitVec.ofBool sign ++ b2).msb = sign := by
      rw [BitVec.msb_append]
      cases sign <;> rfl
    simp only [indexedOperand, MemOperand.operandBytes, Submode.postbyte, offset9Bits_offset9, hmsb,
      BitVec.setWidth_append_eq_right]
    rfl
  | const16 base =>
    simp only [indexedOperand, MemOperand.operandBytes, Submode.postbyte, Word.hi_ofBytes, Word.lo_ofBytes]
    rfl
  | ind16 base =>
    simp only [indexedOperand, MemOperand.operandBytes, Submode.postbyte, Word.hi_ofBytes, Word.lo_ofBytes]
    rfl
  | const5 base off => rfl
  | auto reg pre delta => rfl
  | accOff base acc => rfl
  | indD base => rfl

theorem wf_indexedOperand_extendedSubmode (base : Base) (sel : BitVec 3) (b2 b3 : Byte) :
    (indexedOperand (extendedSubmode base sel) b2 b3).wf = true := by
  have hnine : ∀ sign, (indexedOperand (.const9 base sign) b2 b3).wf = true := fun sign => offset9InRange_offset9 sign b2
  unfold extendedSubmode
  split_ifs
  · exact hnine false
  · exact hnine true
  all_goals rfl

/-- Under the default `XB_DECODE` an indexed operand is in the range that its encoding has. -/
theorem wf_indexedOperand_decodeXB (xb b2 b3 : Byte) : (indexedOperand (decodeXB xb) b2 b3).wf = true := by
  rcases postbyte_cases xb with ⟨base, n, rfl⟩ | ⟨r, post, n, rfl⟩ | ⟨base, sel, rfl⟩
  · rw [decodeXB_const5]
    exact offset5InRange_toInt n
  · rw [decodeXB_auto]
    exact autoStepInRange_autoDelta n
  · rw [decodeXB_extendedXB]
    exact wf_indexedOperand_extendedSubmode base sel b2 b3

/-- An indexed operand in range is read back from its bytes, whatever follows them. -/
theorem indexedOperand_of_operandBytes {m : MemOperand} (hidx : m.mode = .idx) (hwf : m.wf = true) (rest : List Byte) :
    indexedOperand (decodeXB ((m.operandBytes ++ rest).getD 0 0)) ((m.operandBytes ++ rest).getD 1 0)
      ((m.operandBytes ++ rest).getD 2 0) = m := by
  cases m with
  | dir dd => cases hidx
  | ext hhll => cases hidx
  | const5 base off =>
    show indexedOperand (decodeXB (base.field ++ 0#1 ++ BitVec.ofInt 5 off)) _ _ = _
    rw [decodeXB_const5, toInt_ofInt_of_offset5InRange hwf]
    rfl
  | auto r pre delta =>
    show indexedOperand (decodeXB (r.field ++ 1#1 ++ BitVec.ofBool (!pre) ++ autoNibble delta)) _ _ = _
    rw [decodeXB_auto, Bool.not_not, autoDelta_autoNibble hwf]
    rfl
  | accOff base acc =>
    show indexedOperand (decodeXB (extendedXB base acc.select)) _ _ = _
    rw [decodeXB_extendedXB]
    cases acc <;> rfl
  | const9 base off =>
    show indexedOperand (decodeXB (extendedXB base (0#2 ++ BitVec.ofBool (offset9Bits off).msb)))
      ((offset9Bits off).setWidth 8) _ = _
    have hsub : ∀ sign, extendedSubmode base (0#2 ++ BitVec.ofBool sign) = .const9 base sign := by
      intro sign
      cases sign <;> rfl
    rw [decodeXB_extendedXB, hsub, indexedOperand, offset9_offset9Bits hwf]
  | const16 base off =>
    show indexedOperand (decodeXB (extendedXB base 2)) off.hi off.lo = _
    rw [decodeXB_extendedXB]
    exact congrArg (MemOperand.const16 base) (Word.ofBytes_hi_lo off)
  | indD base =>
    show indexedOperand (decodeXB (extendedXB base 7)) _ _ = _
    rw [decodeXB_extendedXB]
    rfl
  | ind16 base off =>
    show indexedOperand (decodeXB (extendedXB base 3)) off.hi off.lo = _
    rw [decodeXB_extendedXB]
    exact congrArg (MemOperand.ind16 base) (Word.ofBytes_hi_lo off)

end Sys2Proof
end

section
/-! PROOFS. The decoder and the encoder are inverse: byte 0 and what it selects, the form and its bytes, the instruction. -/

namespace Sys2Proof

/-! Byte 0. -/

/-- R53 read from right to left: the byte that selects an opcode. -/
def Opcode.byte : Opcode → Byte
  | .inh op => inhOpcode op
  | .imm op => immOpcode op
  | .mem op mode => memOpcode op mode

theorem opcodeOf_byte (op : Opcode) : opcodeOf op.byte = some op := by
  cases op with
  | inh op => cases op <;> rfl
  | imm op => cases op <;> rfl
  | mem op mode => cases op <;> cases mode <;> rfl

theorem mem_of_opcodeIn_eq_some {table : List (Byte × Opcode)} {b : Byte} {op : Opcode} (h : opcodeIn table b = some op) :
    (b, op) ∈ table := by
  induction table with
  | nil => cases h
  | cons e rest ih =>
    obtain ⟨k, op'⟩ := e
    rw [opcodeIn] at h
    split at h
    · rename_i hk
      cases h
      rw [hk]
      exact List.mem_cons_self
    · exact List.mem_cons_of_mem _ (ih h)

/-- No opcode has a second byte. -/
theorem eq_byte_of_opcodeOf {b : Byte} {op : Opcode} (h : opcodeOf b = some op) : b = op.byte := by
  have hbyte : ∀ e ∈ opcodeTable, e.1 = e.2.byte := by decide
  exact hbyte _ (mem_of_opcodeIn_eq_some h)

/-! The form. -/

theorem Form.encode_length (f : Form) : f.encode.length = f.length := by
  cases f with
  | inh op => rfl
  | imm op ii => rfl
  | mem op m => cases m <;> rfl

theorem Form.length_le_four (f : Form) : f.length ≤ 4 := by
  cases f with
  | inh op => exact (by decide : 1 ≤ 4)
  | imm op ii => exact (by decide : 2 ≤ 4)
  | mem op m => cases m <;> exact Nat.le_of_ble_eq_true rfl

theorem Form.one_le_length (f : Form) : 1 ≤ f.length := by
  cases f with
  | inh op => exact Nat.le_refl 1
  | imm op ii => exact (by decide : 1 ≤ 2)
  | mem op m => cases m <;> exact Nat.le_of_ble_eq_true rfl

/-- A form in range is read back from its bytes, whatever follows them. -/
theorem decodeForm_encode {f : Form} (hwf : f.wf = true) (rest : List Byte) :
    decodeForm defaultXB ((f.encode ++ rest).getD 0 0) ((f.encode ++ rest).getD 1 0) ((f.encode ++ rest).getD 2 0)
      ((f.encode ++ rest).getD 3 0) = some f := by
  have indexed : ∀ (op : MemOp) (m : MemOperand), m.mode = .idx → m.wf = true →
      decodeForm defaultXB (memOpcode op .idx) ((m.operandBytes ++ rest).getD 0 0) ((m.operandBytes ++ rest).getD 1 0)
        ((m.operandBytes ++ rest).getD 2 0) = some (.mem op m) := by
    intro op m hidx hm
    refine (decodeForm_of_idx (opcodeOf_byte (.mem op .idx))).trans ?_
    rw [submodeOf_defaultXB, indexedOperand_of_operandBytes hidx hm]
  cases f with
  | inh op => exact decodeForm_of_inh (opcodeOf_byte (.inh op))
  | imm op ii => exact decodeForm_of_imm (opcodeOf_byte (.imm op))
  | mem op m =>
    cases m with
    | dir dd => exact decodeForm_of_dir (opcodeOf_byte (.mem op .dir))
    | ext hhll =>
      refine (decodeForm_of_ext (opcodeOf_byte (.mem op .ext))).trans ?_
      exact congrArg (fun w => some (Form.mem op (.ext w))) (Word.ofBytes_hi_lo hhll)
    | const5 base off => exact indexed op _ rfl hwf
    | auto r pre delta => exact indexed op _ rfl hwf
    | accOff base acc => exact indexed op _ rfl hwf
    | const9 base off => exact indexed op _ rfl hwf
    | const16 base off => exact indexed op _ rfl hwf
    | indD base => exact indexed op _ rfl hwf
    | ind16 base off => exact indexed op _ rfl hwf

/-- Under the default `XB_DECODE` a form that is read is in range, and its bytes are those it was read from. -/
theorem encode_of_decodeForm {b0 b1 b2 b3 : Byte} {f : Form} (h : decodeForm defaultXB b0 b1 b2 b3 = some f) :
    f.wf = true ∧ f.encode = [b0, b1, b2, b3].take f.length := by
  cases hop : opcodeOf b0 with
  | none =>
    rw [decodeForm_of_none hop] at h
    cases h
  | some opcode =>
    obtain rfl := eq_byte_of_opcodeOf hop
    cases opcode with
    | inh op =>
      obtain rfl := Option.some.inj ((decodeForm_of_inh hop).symm.trans h)
      exact ⟨rfl, rfl⟩
    | imm op =>
      obtain rfl := Option.some.inj ((decodeForm_of_imm hop).symm.trans h)
      exact ⟨rfl, rfl⟩
    | mem op mode =>
      cases mode with
      | dir =>
        obtain rfl := Option.some.inj ((decodeForm_of_dir hop).symm.trans h)
        exact ⟨rfl, rfl⟩
      | ext =>
        obtain rfl := Option.some.inj ((decodeForm_of_ext hop).symm.trans h)
        refine ⟨rfl, ?_⟩
        simp only [Form.encode, MemOperand.operandBytes, Word.hi_ofBytes, Word.lo_ofBytes]
        rfl
      | idx =>
        obtain rfl := Option.some.inj ((decodeForm_of_idx hop).symm.trans h)
        refine ⟨wf_indexedOperand_decodeXB b1 b2 b3, ?_⟩
        have hlen : 1 ≤ (indexedOperand (decodeXB b1) b2 b3).length := Form.one_le_length (.mem op _)
        simp only [Form.encode, Form.length, submodeOf_defaultXB, indexedOperand_mode, operandBytes_indexedOperand,
          postbyte_decodeXB]
        obtain ⟨n, hn⟩ := Nat.exists_eq_add_of_le' hlen
        rw [hn]
        rfl

/-! The instruction. -/

theorem decode4_eq_some_iff {t : XbTable} {b0 b1 b2 b3 : Byte} {i : Instr} :
    decode4 t b0 b1 b2 b3 = some i ↔ decodeForm t b0 b1 b2 b3 = some i.form := by
  rw [decode4, Option.map_eq_some_iff]
  constructor
  · rintro ⟨f, hf, rfl⟩
    rwa [Form.form_toInstr]
  · exact fun hf => ⟨i.form, hf, Instr.toInstr_form i⟩

/-- When the decoder reads an instruction: byte 0 and the next three, a missing one standing as 0, select it, and the bytes
hold it whole. -/
theorem decode_eq_instruction_iff {t : XbTable} {bytes rest : List Byte} {i : Instr} :
    decode t bytes = .instruction i rest ↔
      decodeForm t (bytes.getD 0 0) (bytes.getD 1 0) (bytes.getD 2 0) (bytes.getD 3 0) = some i.form ∧
      i.length ≤ bytes.length ∧ rest = bytes.drop i.length := by
  cases bytes with
  | nil =>
    have hlen := Form.one_le_length i.form
    simp only [decode, reduceCtorEq, false_iff, List.length_nil, Instr.length]
    omega
  | cons b0 tail =>
    rw [← decode4_eq_some_iff]
    simp only [decode, List.getD_cons_zero, List.getD_cons_succ]
    cases hd : decode4 t b0 (tail.getD 0 0) (tail.getD 1 0) (tail.getD 2 0) with
    | none => simp
    | some j =>
      simp only [Option.some.injEq]
      split
      · rename_i hle
        simp only [Decoded.instruction.injEq]
        constructor
        · rintro ⟨rfl, rfl⟩
          exact ⟨rfl, hle, rfl⟩
        · rintro ⟨rfl, -, rfl⟩
          exact ⟨rfl, rfl⟩
      · rename_i hle
        simp only [reduceCtorEq, false_iff]
        rintro ⟨rfl, hle', -⟩
        exact hle hle'

/-- The four bytes that the decoder looks at are the given ones as far as those reach. -/
theorem take_getD_four {bytes : List Byte} {n : Nat} (h4 : n ≤ 4) (hn : n ≤ bytes.length) :
    [bytes.getD 0 0, bytes.getD 1 0, bytes.getD 2 0, bytes.getD 3 0].take n = bytes.take n := by
  apply List.ext_getElem
  · rw [List.length_take, List.length_take, Nat.min_eq_left hn]
    exact Nat.min_eq_left h4
  · intro k hk _
    have hkn : k < n := Nat.lt_of_lt_of_le hk (List.length_take_le n _)
    have hk4 : k < 4 := Nat.lt_of_lt_of_le hkn h4
    have hkb : k < bytes.length := Nat.lt_of_lt_of_le hkn hn
    interval_cases k <;> simp [hkb]

/-- Settles O1: the four bytes the decoder looks at begin with the encoding, which selects the form they encode. -/
theorem decodeOfEncodeIsTheInstruction : Obligations.DecodeOfEncodeIsTheInstruction := by
  unfold Obligations.DecodeOfEncodeIsTheInstruction
  intro i rest hwf
  have hlen : (encode i).length = i.length := Form.encode_length i.form
  refine decode_eq_instruction_iff.2 ⟨decodeForm_encode hwf rest, ?_, ?_⟩
  · rw [List.length_append, hlen]
    exact Nat.le_add_right _ _
  · rw [← hlen, List.drop_left]

/-- Settles O2: the form read is in range and encodes to the bytes it was read from; the rest is what follows those. -/
theorem encodeOfDecodeIsTheBytes : Obligations.EncodeOfDecodeIsTheBytes := by
  unfold Obligations.EncodeOfDecodeIsTheBytes
  intro bytes rest i h
  obtain ⟨hform, hlen, rfl⟩ := decode_eq_instruction_iff.1 h
  obtain ⟨hwf, hbytes⟩ := encode_of_decodeForm hform
  have hencode : encode i = bytes.take i.length := hbytes.trans (take_getD_four (Form.length_le_four i.form) hlen)
  exact ⟨hwf, by rw [hencode, List.take_append_drop]⟩

/-! Tables of sub-modes. -/

/-- The first entry for a postbyte decides, so a table that lists every postbyte with its value under `f` gives `f`. -/
theorem submodeOf_map (f : Byte → Submode) {keys : List Byte} {xb : Byte} (h : xb ∈ keys) :
    submodeOf (keys.map fun k => (k, f k)) xb = f xb := by
  induction keys with
  | nil => cases h
  | cons k keys ih =>
    rw [List.map_cons]
    by_cases hk : xb = k
    · rw [hk, submodeOf_cons_same]
    · rw [submodeOf_cons_other _ _ hk]
      exact ih ((List.mem_cons.1 h).resolve_left hk)

/-- Settles O53: the table lists all 256 postbytes. -/
theorem everyPostbyteFunctionIsATable : Obligations.EveryPostbyteFunctionIsATable := by
  unfold Obligations.EveryPostbyteFunctionIsATable
  refine ⟨fun f => ⟨((List.range 256).map (BitVec.ofNat 8)).map fun k => (k, f k), fun xb => submodeOf_map f ?_⟩, rfl,
    submodeOf_defaultXB⟩
  exact List.mem_map.2 ⟨xb.toNat, List.mem_range.2 xb.isLt, by simp⟩

/-- Settles O5: each row is the decoder's reading of its literal bytes. -/
theorem exampleWordsDecode : Obligations.ExampleWordsDecode := by
  unfold Obligations.ExampleWordsDecode
  decide

end Sys2Proof
end

section
/-! PROOFS. Every instruction: when it completes and the state it leaves, said once over the forms, and the frames that
follow from it. -/

namespace Sys2Proof

open Machine Statements

namespace Machine

/-! When an instruction completes, and how. -/

/-- What a form's meaning asks of the state before it completes: the memory it loads, stores or stacks may be accessed. -/
def Admitted : Form → State → Prop
  | .inh .inca, _ | .inh .clrb, _ | .inh .decb, _ | .inh .lsra, _ | .inh .asra, _ => True
  | .inh .swi, s => s.CanEnter s.cfg.swiVector
  | .imm _ _, _ => True
  | .mem .ldaa m, s | .mem .adda m, s => s.CanLoad m
  | .mem .staa m, s | .mem .stab m, s => s.CanStore m

/-- The state in which a form that is admitted leaves the machine. -/
def completed : Form → State → State
  | .inh .inca, s => ((s.setA (s.a + 1)).setCcr (incFlags s.a s.ccr)).advance 1
  | .inh .clrb, s => ((s.setB 0).setCcr (clrFlags s.ccr)).advance 1
  | .inh .decb, s => ((s.setB (s.b - 1)).setCcr (decFlags s.b s.ccr)).advance 1
  | .inh .lsra, s => ((s.setA (lsrResult s.a)).setCcr (lsrFlags s.a s.ccr)).advance 1
  | .inh .asra, s => ((s.setA (asrResult s.a)).setCcr (asrFlags s.a s.ccr)).advance 1
  | .inh .swi, s => enteredState (s.pc + 1) s.cfg.swiVector s
  | .imm .ldaa ii, s => (loadedA ii s).advance 2
  | .imm .adda ii, s => (addedA ii s).advance 2
  | .mem .ldaa m, s =>
    (loadedA (s.peek (effectiveAddress m (preModify m s))) (postModify m (preModify m s))).advance m.length
  | .mem .adda m, s =>
    (addedA (s.peek (effectiveAddress m (preModify m s))) (postModify m (preModify m s))).advance m.length
  | .mem .staa m, s => ((storedTo m s.a s).setCcr (moveFlags s.a s.ccr)).advance m.length
  | .mem .stab m, s => ((storedTo m s.b s).setCcr (moveFlags s.b s.ccr)).advance m.length

theorem execForm_of_admitted {f : Form} {s : State} (h : Admitted f s) : execForm f s = .next (completed f s) := by
  cases f with
  | inh op =>
    cases op with
    | swi => exact execSwi_of_canEnter h
    | _ => rfl
  | imm op ii => cases op <;> rfl
  | mem op m =>
    cases op with
    | ldaa => exact loadA_of_canLoad h
    | adda => exact addA_of_canLoad h
    | staa => exact storeByte_of_canStore h s.a
    | stab => exact storeByte_of_canStore h s.b

theorem admitted_of_execForm {f : Form} {s t : State} (h : execForm f s = .next t) : Admitted f s := by
  cases f with
  | inh op =>
    cases op with
    | swi => exact (execSwi_next h).1
    | _ => trivial
  | imm op ii => trivial
  | mem op m =>
    cases op with
    | ldaa => exact (loadA_next h).1
    | adda => exact (addA_next h).1
    | staa => exact (storeByte_next h).1
    | stab => exact (storeByte_next h).1

/-- All that an instruction can do when it answers a next state. -/
theorem exec_eq_next_iff {i : Instr} {s t : State} :
    exec i s = .next t ↔ Admitted i.form s ∧ t = completed i.form s := by
  rw [exec_eq_execForm]
  constructor
  · intro h
    have hadm := admitted_of_execForm h
    rw [execForm_of_admitted hadm] at h
    exact ⟨hadm, (Host.Outcome.next.inj h).symm⟩
  · rintro ⟨hadm, rfl⟩
    exact execForm_of_admitted hadm

/-! The index registers and memory under the operand accesses. -/

theorem index_setIndex_of_ne (s : State) {r k : IndexReg} (h : r ≠ k) (v : Word) :
    (s.setIndex k v).index r = s.index r := by
  cases r <;> cases k <;> simp_all [State.index, State.setIndex]

/-- An operand form leaves the index registers but the one that it steps (R60). -/
theorem index_preModify {op : MemOp} {m : MemOperand} {r : IndexReg} (h : autoReg (.mem op m) ≠ some r) (s : State) :
    (preModify m s).index r = s.index r := by
  cases m with
  | auto k pre delta =>
    cases pre with
    | true => exact index_setIndex_of_ne s (fun e => h (congrArg some e.symm)) _
    | false => rfl
  | _ => rfl

theorem index_postModify {op : MemOp} {m : MemOperand} {r : IndexReg} (h : autoReg (.mem op m) ≠ some r) (s : State) :
    (postModify m s).index r = s.index r := by
  cases m with
  | auto k pre delta =>
    cases pre with
    | true => rfl
    | false => exact index_setIndex_of_ne s (fun e => h (congrArg some e.symm)) _
  | _ => rfl

@[simp] theorem index_setA (s : State) (v : Byte) (r : IndexReg) : (s.setA v).index r = s.index r := by cases r <;> rfl
@[simp] theorem index_setB (s : State) (v : Byte) (r : IndexReg) : (s.setB v).index r = s.index r := by cases r <;> rfl
@[simp] theorem index_setCcr (s : State) (f : Ccr) (r : IndexReg) : (s.setCcr f).index r = s.index r := by cases r <;> rfl
@[simp] theorem index_advance (s : State) (n : Nat) (r : IndexReg) : (s.advance n).index r = s.index r := by
  cases r <;> rfl
@[simp] theorem index_poke (s : State) (k : Word) (v : Byte) (r : IndexReg) : (s.poke k v).index r = s.index r := by
  cases r <;> rfl

theorem index_storedTo {op : MemOp} {m : MemOperand} {r : IndexReg} (h : autoReg (.mem op m) ≠ some r) (v : Byte)
    (s : State) : (storedTo m v s).index r = s.index r := by
  rw [storedTo, index_postModify h, index_poke, index_preModify h]

/-- A store to a memory operand changes the byte at its effective address alone. -/
theorem storedTo_peek_other {m : MemOperand} {s : State} {a : Word} (h : a ≠ effectiveAddress m (preModify m s))
    (v : Byte) : (storedTo m v s).peek a = s.peek a := by
  rw [storedTo, postModify_peek, State.peek_poke_other _ _ h, preModify_peek]

theorem storedTo_peek_same {m : MemOperand} {s : State} (hs : s.Inv) (v : Byte) :
    (storedTo m v s).peek (effectiveAddress m (preModify m s)) = v := by
  rw [storedTo, postModify_peek, State.peek_poke_same]
  rwa [preModify_mem]

@[simp] theorem storedTo_a (m : MemOperand) (v : Byte) (s : State) : (storedTo m v s).a = s.a := by simp [storedTo]
@[simp] theorem storedTo_b (m : MemOperand) (v : Byte) (s : State) : (storedTo m v s).b = s.b := by simp [storedTo]
@[simp] theorem storedTo_pc (m : MemOperand) (v : Byte) (s : State) : (storedTo m v s).pc = s.pc := by simp [storedTo]
@[simp] theorem storedTo_ccr (m : MemOperand) (v : Byte) (s : State) : (storedTo m v s).ccr = s.ccr := by simp [storedTo]
@[simp] theorem storedTo_irq (m : MemOperand) (v : Byte) (s : State) : (storedTo m v s).irq = s.irq := by simp [storedTo]
@[simp] theorem storedTo_cfg (m : MemOperand) (v : Byte) (s : State) : (storedTo m v s).cfg = s.cfg := by simp [storedTo]
@[simp] theorem storedTo_resetRequested (m : MemOperand) (v : Byte) (s : State) :
    (storedTo m v s).resetRequested = s.resetRequested := by simp [storedTo]
@[simp] theorem storedTo_draws (m : MemOperand) (v : Byte) (s : State) : (storedTo m v s).draws = s.draws := by
  simp [storedTo]

/-! What a completed form leaves, a lemma per piece of state, over the forms. -/

theorem completed_a {f : Form} (h : writesA f = false) (s : State) : (completed f s).a = s.a := by
  cases f with
  | inh op =>
    cases op with
    | inca | lsra | asra => cases h
    | clrb | decb | swi => rfl
  | imm op ii => cases h
  | mem op m =>
    cases op with
    | ldaa | adda => cases h
    | staa | stab => simp [completed]

theorem completed_b {f : Form} (h : writesB f = false) (s : State) : (completed f s).b = s.b := by
  cases f with
  | inh op =>
    cases op with
    | clrb | decb => cases h
    | inca | lsra | asra | swi => rfl
  | imm op ii => cases op <;> rfl
  | mem op m => cases op <;> simp [completed, loadedA, addedA]

theorem completed_index {f : Form} {r : IndexReg} (h : autoReg f ≠ some r) (hsp : r = .sp → f ≠ .inh .swi) (s : State) :
    (completed f s).index r = s.index r := by
  cases f with
  | inh op =>
    cases op with
    | swi =>
      cases r with
      | sp => exact absurd rfl (hsp rfl)
      | x | y => rfl
    | inca | clrb | decb | lsra | asra => simp [completed]
  | imm op ii => cases op <;> simp [completed, loadedA, addedA]
  | mem op m =>
    have hstore : ∀ v, (storedTo m v s).index r = s.index r := fun v => index_storedTo h v s
    cases op <;> simp [completed, loadedA, addedA, hstore, index_postModify h, index_preModify h]

theorem completed_mem {f : Form} (h : writesMemory f = false) (s : State) : (completed f s).mem = s.mem := by
  cases f with
  | inh op =>
    cases op with
    | swi => cases h
    | inca | clrb | decb | lsra | asra => rfl
  | imm op ii => cases op <;> rfl
  | mem op m =>
    cases op with
    | ldaa | adda => simp [completed, loadedA, addedA]
    | staa | stab => cases h

/-- S and X are written by no form, I by SWI alone (R16, R22). -/
theorem completed_ccr_s (f : Form) (s : State) : (completed f s).ccr.s = s.ccr.s := by
  cases f with
  | inh op => cases op <;> rfl
  | imm op ii => cases op <;> rfl
  | mem op m => cases op <;> simp [completed, loadedA, addedA, moveFlags, addFlags]

theorem completed_ccr_x (f : Form) (s : State) : (completed f s).ccr.x = s.ccr.x := by
  cases f with
  | inh op => cases op <;> rfl
  | imm op ii => cases op <;> rfl
  | mem op m => cases op <;> simp [completed, loadedA, addedA, moveFlags, addFlags]

theorem completed_ccr_i {f : Form} (h : f ≠ .inh .swi) (s : State) : (completed f s).ccr.i = s.ccr.i := by
  cases f with
  | inh op =>
    cases op with
    | swi => exact absurd rfl h
    | inca | clrb | decb | lsra | asra => rfl
  | imm op ii => cases op <;> rfl
  | mem op m => cases op <;> simp [completed, loadedA, addedA, moveFlags, addFlags]

theorem completed_ccr_h {f : Form} (h : writesH f = false) (s : State) : (completed f s).ccr.h = s.ccr.h := by
  cases f with
  | inh op => cases op <;> rfl
  | imm op ii =>
    cases op with
    | ldaa => rfl
    | adda => cases h
  | mem op m =>
    cases op with
    | adda => cases h
    | ldaa | staa | stab => simp [completed, loadedA, moveFlags]

theorem completed_ccr_c {f : Form} (h : writesC f = false) (s : State) : (completed f s).ccr.c = s.ccr.c := by
  cases f with
  | inh op =>
    cases op with
    | lsra | asra | clrb => cases h
    | inca | decb | swi => rfl
  | imm op ii =>
    cases op with
    | ldaa => rfl
    | adda => cases h
  | mem op m =>
    cases op with
    | adda => cases h
    | ldaa | staa | stab => simp [completed, loadedA, moveFlags]

theorem sameOutside_completed (f : Form) (s : State) : SameOutside s (completed f s) := by
  cases f with
  | inh op => cases op <;> exact ⟨rfl, rfl, rfl, rfl⟩
  | imm op ii => cases op <;> exact ⟨rfl, rfl, rfl, rfl⟩
  | mem op m => cases op <;> simp [SameOutside, completed, loadedA, addedA]

theorem completed_pc {f : Form} (h : f ≠ .inh .swi) (s : State) :
    (completed f s).pc = s.pc + BitVec.ofNat 16 f.length := by
  cases f with
  | inh op =>
    cases op with
    | swi => exact absurd rfl h
    | inca | clrb | decb | lsra | asra => rfl
  | imm op ii => cases op <;> rfl
  | mem op m => cases op <;> simp [completed, loadedA, addedA, Form.length]

end Machine

/-! The obligations. -/

theorem toInstr_inj {f f' : Form} : f.toInstr = f'.toInstr ↔ f = f' := by
  constructor
  · intro h
    rw [← Form.form_toInstr f, h, Form.form_toInstr]
  · exact congrArg Form.toInstr

theorem form_eq_swi_iff {i : Instr} : i.form = .inh .swi ↔ i = .swi := by
  rw [← toInstr_inj, Instr.toInstr_form]
  rfl

/-- Settles O24: the state an instruction leaves is its form's, and each piece of state has its lemma over the forms. -/
theorem onlyTheListedInstructionsWrite : Obligations.OnlyTheListedInstructionsWrite := by
  unfold Obligations.OnlyTheListedInstructionsWrite
  intro i s t h
  obtain ⟨-, rfl⟩ := exec_eq_next_iff.1 h
  have hswi : i ≠ .swi → i.form ≠ .inh .swi := fun hi e => hi (form_eq_swi_iff.1 e)
  refine ⟨fun hw => completed_a hw s, fun hw => completed_b hw s, fun hr => completed_index (r := .x) hr nofun s,
    fun hr => completed_index (r := .y) hr nofun s, fun hr hi => completed_index (r := .sp) hr (fun _ => hswi hi) s,
    fun hw => completed_mem hw s, completed_ccr_s _ s, completed_ccr_x _ s, fun hi => completed_ccr_i (hswi hi) s,
    fun hw => completed_ccr_h hw s, fun hw => completed_ccr_c hw s, ?_⟩
  rintro rfl
  exact ⟨rfl, rfl, rfl⟩

/-- Settles O20: LDAA and ADDA write neither B nor memory. -/
theorem loadsAndAddsLeaveTheRest : Obligations.LoadsAndAddsLeaveTheRest := by
  unfold Obligations.LoadsAndAddsLeaveTheRest
  intro f s t hf h
  obtain ⟨-, rfl⟩ := exec_eq_next_iff.1 h
  rw [Form.form_toInstr]
  obtain ⟨hb, hm, hswi⟩ : writesB f = false ∧ writesMemory f = false ∧ f ≠ .inh .swi := by
    rcases hf with ⟨op, ii, rfl⟩ | ⟨m, rfl⟩ | ⟨m, rfl⟩ <;> exact ⟨rfl, rfl, nofun⟩
  refine ⟨completed_b hb s, fun r hr => completed_index hr (fun _ => hswi) s,
    State.peek_eq_of_mem (completed_mem hm s), sameOutside_completed f s, completed_ccr_s f s, completed_ccr_x f s,
    completed_ccr_i hswi s, ?_⟩
  rintro (⟨ii, rfl⟩ | ⟨m, rfl⟩) <;> exact ⟨completed_ccr_h rfl s, completed_ccr_c rfl s⟩

/-- A store leaves the state that `storedTo` describes, whichever accumulator it stores. -/
theorem completed_store {op : MemOp} (h : op = .staa ∨ op = .stab) (m : MemOperand) (s : State) :
    ∃ v, completed (.mem op m) s = ((storedTo m v s).setCcr (moveFlags v s.ccr)).advance m.length := by
  rcases h with rfl | rfl
  · exact ⟨s.a, rfl⟩
  · exact ⟨s.b, rfl⟩

/-- Settles O21: STAA and STAB write no accumulator and neither H nor C, and `storedTo` changes one byte. -/
theorem storesLeaveTheRest : Obligations.StoresLeaveTheRest := by
  unfold Obligations.StoresLeaveTheRest
  intro op m s t hop h
  obtain ⟨-, rfl⟩ := exec_eq_next_iff.1 h
  rw [Form.form_toInstr]
  obtain ⟨ha, hh, hc⟩ :
      writesA (.mem op m) = false ∧ writesH (.mem op m) = false ∧ writesC (.mem op m) = false := by
    rcases hop with rfl | rfl <;> exact ⟨rfl, rfl, rfl⟩
  have hpeek : ∀ a, a ≠ effectiveAddress m (preModify m s) → (completed (.mem op m) s).peek a = s.peek a := by
    intro a hne
    obtain ⟨v, hv⟩ := completed_store hop m s
    rw [hv, State.advance_peek, State.setCcr_peek, storedTo_peek_other hne]
  exact ⟨completed_a ha s, completed_b rfl s, fun r hr => completed_index hr (fun _ => nofun) s, hpeek,
    sameOutside_completed _ s, completed_ccr_s _ s, completed_ccr_x _ s, completed_ccr_h hh s,
    completed_ccr_i (f := .mem op m) nofun s, completed_ccr_c hc s⟩

/-- Settles O22: of the inherent forms none steps an index register or writes H, and SWI alone writes memory. -/
theorem inherentFormsLeaveTheRest : Obligations.InherentFormsLeaveTheRest := by
  unfold Obligations.InherentFormsLeaveTheRest
  intro op s t hop h
  obtain ⟨-, rfl⟩ := exec_eq_next_iff.1 h
  rw [Form.form_toInstr]
  have hswi : Form.inh op ≠ .inh .swi := fun e => hop (Form.inh.inj e)
  have hmem : writesMemory (.inh op) = false := by
    cases op with
    | swi => exact absurd rfl hop
    | inca | clrb | decb | lsra | asra => rfl
  have hindex : ∀ r, (completed (.inh op) s).index r = s.index r := fun r =>
    completed_index (f := .inh op) (Option.some_ne_none r).symm (fun _ => hswi) s
  refine ⟨?b, ?a, hindex .x, hindex .y, hindex .sp, State.peek_eq_of_mem (completed_mem hmem s),
    sameOutside_completed _ s, completed_ccr_s _ s, completed_ccr_x _ s, completed_ccr_h rfl s, completed_ccr_i hswi s, ?c⟩
  case b => rintro (rfl | rfl | rfl) <;> exact completed_b rfl s
  case a => rintro (rfl | rfl) <;> exact completed_a rfl s
  case c => rintro (rfl | rfl) <;> exact completed_ccr_c rfl s

/-- Settles O23: SWI leaves the entered state, which differs in the frame, SP, I and pc alone. -/
theorem swiLeavesTheRest : Obligations.SwiLeavesTheRest := by
  unfold Obligations.SwiLeavesTheRest
  intro s t h
  obtain ⟨-, rfl⟩ := execSwi_next h
  exact ⟨rfl, rfl, rfl, rfl, fun _ ha => enteredState_peek_other _ _ s ha, sameOutside_enteredState _ _ s, rfl⟩

/-- Settles O25: the length of the encoding is the form's, by which the form moves pc; SWI loads pc from its vector. -/
theorem pcMovesPastTheInstruction : Obligations.PcMovesPastTheInstruction := by
  unfold Obligations.PcMovesPastTheInstruction
  refine ⟨fun i s t hi h => ?_, fun s t h => ?_⟩
  · obtain ⟨-, rfl⟩ := exec_eq_next_iff.1 h
    rw [completed_pc (fun e => hi (form_eq_swi_iff.1 e)), encode, Form.encode_length, BitVec.toNat_add, BitVec.toNat_ofNat,
      Nat.add_mod_mod]
  · obtain ⟨-, rfl⟩ := execSwi_next h
    exact s.peekWord_eq _

end Sys2Proof
end

section
/-! PROOFS. Every step: the three things it can do when it answers a next state, and what each of them keeps. -/

namespace Sys2Proof

open Machine Statements

namespace Machine

/-- A step that answers a next state is a reset, an exception entry (an interrupt's or SWI's), or another instruction. -/
theorem step_next {s t : State} (h : step s = .next t) :
    (s.resetRequested = true ∧ resetEntry s = .ok t) ∨
    (s.resetRequested = false ∧ ∃ ret vec, s.afterChoice.CanEnter vec ∧ t = enteredState ret vec s.afterChoice) ∨
    (s.resetRequested = false ∧ ∃ f, f ≠ .inh .swi ∧ Admitted f s.afterChoice ∧ t = completed f s.afterChoice) := by
  obtain ⟨-, hreset | ⟨hno, src, -, -, hsrc⟩ | ⟨hno, i, -, hexec⟩⟩ := step_cases h
  · exact .inl hreset
  · exact .inr (.inl ⟨hno, _, _, exceptionEntry_ok hsrc⟩)
  · obtain ⟨hadm, rfl⟩ := exec_eq_next_iff.1 hexec
    by_cases hswi : i.form = .inh .swi
    · rw [hswi] at hadm ⊢
      exact .inr (.inl ⟨hno, _, _, hadm, rfl⟩)
    · exact .inr (.inr ⟨hno, _, hswi, hadm, rfl⟩)

@[simp] theorem State.afterChoice_peek (s : State) (a : Word) : s.afterChoice.peek a = s.peek a :=
  State.peek_eq_of_mem s.afterChoice_mem a

theorem State.afterChoice_writable (s : State) (a : Word) : s.afterChoice.Writable a ↔ s.Writable a := by
  simp [State.Writable, State.kindAt]

/-! What a completed instruction does to memory. -/

theorem storedTo_wf {s : State} (hs : s.Inv) (m : MemOperand) (v : Byte) : (storedTo m v s).Inv := by
  rw [State.Inv, storedTo, postModify_mem]
  exact State.poke_wf _ (by rwa [preModify_mem]) _ v

/-- An entry that is admitted changes no byte that may not be written. -/
theorem enteredState_peek_of_not_writable {vec : Word} {s : State} (h : s.CanEnter vec) (ret : Word) {a : Word}
    (ha : ¬ s.Writable a) : (enteredState ret vec s).peek a = s.peek a :=
  enteredState_peek_other ret vec s fun hmem => ha (h.frameWritable a hmem)

theorem storedTo_peek_of_not_writable {m : MemOperand} {s : State} (h : s.CanStore m) (v : Byte) {a : Word}
    (ha : ¬ s.Writable a) : (storedTo m v s).peek a = s.peek a := by
  refine storedTo_peek_other (fun e => ha ?_) v
  rw [e]
  exact h.2

/-- An instruction other than SWI leaves memory alone or stores one byte at an address that may be written. -/
theorem completed_mem_cases {f : Form} {s : State} (hf : f ≠ .inh .swi) (h : Admitted f s) :
    (completed f s).mem = s.mem ∨ ∃ m v, s.CanStore m ∧ (completed f s).mem = (storedTo m v s).mem := by
  cases f with
  | inh op =>
    cases op with
    | swi => exact absurd rfl hf
    | inca | clrb | decb | lsra | asra => exact .inl rfl
  | imm op ii => exact .inl (completed_mem rfl s)
  | mem op m =>
    cases op with
    | ldaa | adda => exact .inl (completed_mem rfl s)
    | staa => exact .inr ⟨m, s.a, h, rfl⟩
    | stab => exact .inr ⟨m, s.b, h, rfl⟩

theorem completed_wf {f : Form} {s : State} (hf : f ≠ .inh .swi) (h : Admitted f s) (hs : s.Inv) :
    (completed f s).Inv := by
  rcases completed_mem_cases hf h with hmem | ⟨m, v, -, hmem⟩
  · rwa [State.Inv, hmem]
  · rw [State.Inv, hmem]
    exact storedTo_wf hs m v

theorem completed_peek_of_not_writable {f : Form} {s : State} (hf : f ≠ .inh .swi) (h : Admitted f s) {a : Word}
    (ha : ¬ s.Writable a) : (completed f s).peek a = s.peek a := by
  rcases completed_mem_cases hf h with hmem | ⟨m, v, hstore, hmem⟩
  · exact State.peek_eq_of_mem hmem a
  · exact (State.peek_eq_of_mem hmem a).trans (storedTo_peek_of_not_writable hstore v ha)

end Machine

/-! The invariants. -/

/-- Settles O47: a reset writes no memory; an entry and an instruction write bytes at 16-bit addresses. -/
theorem memoryStaysCanonical : Obligations.MemoryStaysCanonical := by
  unfold Obligations.MemoryStaysCanonical
  intro s t hs h
  have hchoice : s.afterChoice.Inv := by rwa [State.Inv, State.afterChoice_mem]
  rcases step_next h with ⟨-, hr⟩ | ⟨-, ret, vec, -, rfl⟩ | ⟨-, f, hf, hadm, rfl⟩
  · obtain ⟨-, -, -, -, hmem, -⟩ := resetEntry_ok hr
    rwa [State.Inv, hmem]
  · exact enteredState_wf ret vec _ hchoice
  · exact completed_wf hf hadm hchoice

/-- Settles O48: no cell is listed. -/
theorem resetMemoryIsCanonical : Obligations.ResetMemoryIsCanonical := by
  unfold Obligations.ResetMemoryIsCanonical
  exact Memory.nil_wf

/-- Settles O49: a reset and an entry set I, and no instruction but SWI writes it. -/
theorem interruptMaskOnceSetStaysSet : Obligations.InterruptMaskOnceSetStaysSet := by
  unfold Obligations.InterruptMaskOnceSetStaysSet
  intro s t hi h
  rcases step_next h with ⟨-, hr⟩ | ⟨-, ret, vec, -, rfl⟩ | ⟨-, f, hf, -, rfl⟩
  · obtain ⟨-, -, -, hccr, -⟩ := resetEntry_ok hr
    rw [hccr]
    rfl
  · rfl
  · rwa [completed_ccr_i hf, State.afterChoice_ccr]

/-- Settles O50: without a reset the step is an entry, which writes I alone, or an instruction, which writes neither. -/
theorem sAndXFlagsChangeOnlyAtReset : Obligations.SAndXFlagsChangeOnlyAtReset := by
  unfold Obligations.SAndXFlagsChangeOnlyAtReset
  intro s t hno h
  rw [← s.afterChoice_ccr]
  rcases step_next h with ⟨hyes, -⟩ | ⟨-, ret, vec, -, rfl⟩ | ⟨-, f, -, -, rfl⟩
  · rw [hno] at hyes
    cases hyes
  · exact ⟨rfl, rfl⟩
  · exact ⟨completed_ccr_s f _, completed_ccr_x f _⟩

/-- Settles O51: a byte of the program or one that is not plain memory may not be written, and whatever a step writes was
found to be writable. -/
theorem programAndForbiddenBytesNeverChange : Obligations.ProgramAndForbiddenBytesNeverChange := by
  unfold Obligations.ProgramAndForbiddenBytesNeverChange
  intro s t h
  have hwritable : ∀ a, inCode s.cfg.codeRegion a = true ∨ s.kindAt a ≠ .plain → ¬ s.afterChoice.Writable a := by
    intro a ha hw
    obtain ⟨hplain, hcode⟩ := (s.afterChoice_writable a).1 hw
    rcases ha with hin | hkind
    · rw [hcode] at hin
      cases hin
    · exact hkind hplain
  rcases step_next h with ⟨-, hr⟩ | ⟨-, ret, vec, henter, rfl⟩ | ⟨-, f, hf, hadm, rfl⟩
  · obtain ⟨-, -, -, -, hmem, hcfg, hirq, -⟩ := resetEntry_ok hr
    exact ⟨hcfg, hirq, fun a _ => State.peek_eq_of_mem hmem a⟩
  · exact ⟨s.afterChoice_cfg, s.afterChoice_irq, fun a ha =>
      (enteredState_peek_of_not_writable henter ret (hwritable a ha)).trans (s.afterChoice_peek a)⟩
  · obtain ⟨hirq, hcfg, -, -⟩ := sameOutside_completed f s.afterChoice
    exact ⟨hcfg.trans s.afterChoice_cfg, hirq.trans s.afterChoice_irq, fun a ha =>
      (completed_peek_of_not_writable hf hadm (hwritable a ha)).trans (s.afterChoice_peek a)⟩

end Sys2Proof
end

section
/-! PROOFS. What no instruction reads: the variant, and but for SWI the flags. Both are replaced in one state, so that each
operation is followed once. -/

namespace Sys2Proof

open Machine Statements

namespace Machine

/-- The state with other flags and another variant. -/
def State.disguise (g : Ccr) (v : Variant) (s : State) : State :=
  { s with ccr := g, cfg := { s.cfg with variant := v } }

/-! Replaced flags and variant are no input of an operand access. -/

section
variable (g : Ccr) (v : Variant) (s : State)

theorem setIndex_disguise (r : IndexReg) (w : Word) :
    (s.disguise g v).setIndex r w = (s.setIndex r w).disguise g v := by
  cases r <;> rfl

theorem index_disguise (r : IndexReg) : (s.disguise g v).index r = s.index r := by
  cases r <;> rfl

theorem preModify_disguise (m : MemOperand) : preModify m (s.disguise g v) = (preModify m s).disguise g v := by
  cases m with
  | auto r pre delta =>
    cases pre with
    | true => rw [preModify, index_disguise, setIndex_disguise, preModify]
    | false => rfl
  | _ => rfl

theorem postModify_disguise (m : MemOperand) : postModify m (s.disguise g v) = (postModify m s).disguise g v := by
  cases m with
  | auto r pre delta =>
    cases pre with
    | true => rfl
    | false => rw [postModify, index_disguise, setIndex_disguise, postModify]
  | _ => rfl

theorem baseValue_disguise (len : Nat) (base : Base) : baseValue (s.disguise g v) len base = baseValue s len base := by
  cases base <;> rfl

theorem accOffset_disguise (acc : Acc) : accOffset (s.disguise g v) acc = accOffset s acc := by
  cases acc <;> rfl

theorem pointerAddress_disguise (m : MemOperand) : pointerAddress m (s.disguise g v) = pointerAddress m s := by
  cases m with
  | indD base | ind16 base off =>
    rw [pointerAddress, baseValue_disguise]
    rfl
  | _ => rfl

theorem effectiveAddress_disguise (m : MemOperand) : effectiveAddress m (s.disguise g v) = effectiveAddress m s := by
  cases m <;> simp only [effectiveAddress, baseValue_disguise, accOffset_disguise, index_disguise] <;> rfl

theorem pointerReadable_disguise (m : MemOperand) : (s.disguise g v).PointerReadable m ↔ s.PointerReadable m := by
  rw [State.PointerReadable, preModify_disguise, pointerAddress_disguise]
  rfl

theorem canLoad_disguise (m : MemOperand) : (s.disguise g v).CanLoad m ↔ s.CanLoad m := by
  rw [State.CanLoad, pointerReadable_disguise, preModify_disguise, effectiveAddress_disguise]
  rfl

theorem canStore_disguise (m : MemOperand) : (s.disguise g v).CanStore m ↔ s.CanStore m := by
  rw [State.CanStore, pointerReadable_disguise, preModify_disguise, effectiveAddress_disguise]
  rfl

theorem storedTo_disguise (m : MemOperand) (w : Byte) :
    storedTo m w (s.disguise g v) = (storedTo m w s).disguise g v := by
  rw [storedTo, preModify_disguise, effectiveAddress_disguise, storedTo, ← postModify_disguise]
  rfl

/-! The instructions. -/

/-- The flags after a form, from the state before and any flags `g` in place of that state's. -/
def flagsAfter : Form → State → Ccr → Ccr
  | .inh .inca, s, g => incFlags s.a g
  | .inh .clrb, _, g => clrFlags g
  | .inh .decb, s, g => decFlags s.b g
  | .inh .lsra, s, g => lsrFlags s.a g
  | .inh .asra, s, g => asrFlags s.a g
  | .inh .swi, _, g => setIFlag g
  | .imm .ldaa ii, _, g => moveFlags ii g
  | .imm .adda ii, s, g => addFlags s.a ii g
  | .mem .ldaa m, s, g => moveFlags (s.peek (effectiveAddress m (preModify m s))) g
  | .mem .adda m, s, g => addFlags s.a (s.peek (effectiveAddress m (preModify m s))) g
  | .mem .staa _, s, g => moveFlags s.a g
  | .mem .stab _, s, g => moveFlags s.b g

theorem completed_ccr (f : Form) : (completed f s).ccr = flagsAfter f s s.ccr := by
  cases f with
  | inh op => cases op <;> rfl
  | imm op ii => cases op <;> rfl
  | mem op m => cases op <;> simp [completed, flagsAfter, loadedA, addedA]

theorem admitted_disguise {f : Form} (hf : f ≠ .inh .swi) : Admitted f (s.disguise g v) ↔ Admitted f s := by
  cases f with
  | inh op =>
    cases op with
    | swi => exact absurd rfl hf
    | inca | clrb | decb | lsra | asra => rfl
  | imm op ii => rfl
  | mem op m =>
    cases op with
    | ldaa | adda => exact canLoad_disguise g v s m
    | staa | stab => exact canStore_disguise g v s m

/-- No form but SWI's reads the flags or the variant: the replaced ones come through, the flags by way of the form. -/
theorem completed_disguise {f : Form} (hf : f ≠ .inh .swi) :
    completed f (s.disguise g v) = (completed f s).disguise (flagsAfter f s g) v := by
  cases f with
  | inh op =>
    cases op with
    | swi => exact absurd rfl hf
    | inca | clrb | decb | lsra | asra => rfl
  | imm op ii => cases op <;> rfl
  | mem op m =>
    cases op with
    | ldaa =>
      simp only [completed, preModify_disguise, effectiveAddress_disguise, postModify_disguise]
      rfl
    | adda =>
      simp only [completed, preModify_disguise, effectiveAddress_disguise, postModify_disguise]
      have ha : (postModify m (preModify m s)).a = s.a := by rw [postModify_a, preModify_a]
      rw [flagsAfter, ← ha]
      rfl
    | staa =>
      simp only [completed, storedTo_disguise]
      rfl
    | stab =>
      simp only [completed, storedTo_disguise]
      rfl

end

theorem disguise_of_variant {g : Ccr} {v : Variant} {s : State} (h : s.cfg.variant = v) :
    s.disguise g v = { s with ccr := g } := by
  subst h
  rfl

/-- The flags that a form writes do not depend on those before: N, Z and V for every form but SWI's, H and C where
listed. -/
theorem flagsAfter_agree {f : Form} (hf : f ≠ .inh .swi) (s : State) (g g' : Ccr) :
    (flagsAfter f s g).n = (flagsAfter f s g').n ∧ (flagsAfter f s g).z = (flagsAfter f s g').z ∧
    (flagsAfter f s g).v = (flagsAfter f s g').v ∧
    (writesH f = true → (flagsAfter f s g).h = (flagsAfter f s g').h) ∧
    (writesC f = true → (flagsAfter f s g).c = (flagsAfter f s g').c) := by
  cases f with
  | inh op =>
    cases op with
    | swi => exact absurd rfl hf
    | inca | decb => exact ⟨rfl, rfl, rfl, nofun, nofun⟩
    | clrb | lsra | asra => exact ⟨rfl, rfl, rfl, nofun, fun _ => rfl⟩
  | imm op ii =>
    cases op with
    | ldaa => exact ⟨rfl, rfl, rfl, nofun, nofun⟩
    | adda => exact ⟨rfl, rfl, rfl, fun _ => rfl, fun _ => rfl⟩
  | mem op m =>
    cases op with
    | ldaa | staa | stab => exact ⟨rfl, rfl, rfl, nofun, nofun⟩
    | adda => exact ⟨rfl, rfl, rfl, fun _ => rfl, fun _ => rfl⟩

/-! Entries, the fetch and the step, which read the flags but not the variant. -/

section
variable (v : Variant) (s : State)

theorem withVariant_eq_disguise : withVariant v s = s.disguise s.ccr v := rfl

theorem exec_withVariant_of_ne_swi {i : Instr} {t : State} (hi : i ≠ .swi) (h : exec i s = .next t) :
    exec i (withVariant v s) = .next (withVariant v t) := by
  have hf : i.form ≠ .inh .swi := fun e => hi (form_eq_swi_iff.1 e)
  obtain ⟨hadm, rfl⟩ := exec_eq_next_iff.1 h
  refine exec_eq_next_iff.2 ⟨(admitted_disguise s.ccr v s hf).2 hadm, ?_⟩
  rw [withVariant_eq_disguise, withVariant_eq_disguise, completed_disguise _ _ _ hf, completed_ccr]

theorem pokeAll_withVariant (l : List (Word × Byte)) :
    pokeAll (withVariant v s) l = withVariant v (pokeAll s l) := by
  induction l generalizing s with
  | nil => rfl
  | cons c l ih => exact ih (s.poke c.1 c.2)

theorem enteredState_withVariant (ret vec : Word) :
    enteredState ret vec (withVariant v s) = withVariant v (enteredState ret vec s) := by
  have hmem : (pokeAll (withVariant v s) (frameBytes ret s)).mem = (pokeAll s (frameBytes ret s)).mem := by
    rw [pokeAll_withVariant]
    rfl
  exact State.ext rfl rfl rfl rfl rfl rfl rfl hmem rfl rfl rfl rfl

theorem exceptionEntry_withVariant {ret vec : Word} {t : State} (h : exceptionEntry ret vec s = .ok t) :
    exceptionEntry ret vec (withVariant v s) = .ok (withVariant v t) := by
  obtain ⟨⟨hframe, hvec, hdisj⟩, rfl⟩ := exceptionEntry_ok h
  have henter : (withVariant v s).CanEnter vec := ⟨hframe, hvec, hdisj⟩
  rw [exceptionEntry_of_canEnter henter, enteredState_withVariant]

theorem exec_withVariant {i : Instr} {t : State} (h : exec i s = .next t) :
    exec i (withVariant v s) = .next (withVariant v t) := by
  by_cases hi : i = .swi
  · subst hi
    exact congrArg outcomeOf (exceptionEntry_withVariant v s (outcomeOf_eq_next h))
  · exact exec_withVariant_of_ne_swi v s hi h

theorem resetEntry_withVariant {t : State} (h : resetEntry s = .ok t) :
    resetEntry (withVariant v s) = .ok (withVariant v t) := by
  unfold resetEntry at h ⊢
  have hr : readWordRefusal (withVariant v s) (withVariant v s).cfg.resetVector = readWordRefusal s s.cfg.resetVector := rfl
  rw [hr]
  split at h
  · cases h
  · cases h
    rfl

theorem fetchRefusal_withVariant (a : Word) (n : Nat) : fetchRefusal (withVariant v s) a n = fetchRefusal s a n := by
  induction n with
  | zero => rfl
  | succ n ih =>
    rw [fetchRefusal, ih, fetchRefusal]
    rfl

theorem fetch_withVariant : fetch (withVariant v s) = fetch s := by
  unfold fetch
  simp only [fetchRefusal_withVariant]
  rfl

theorem afterChoice_withVariant : (withVariant v s).afterChoice = withVariant v s.afterChoice := by
  unfold State.afterChoice
  have hsources : (withVariant v s).enabledSources = s.enabledSources := rfl
  rw [hsources]
  split <;> rfl

theorem boundary_withVariant : (withVariant v s).boundary = s.boundary := rfl

theorem step_withVariant {t : State} (h : step s = .next t) : step (withVariant v s) = .next (withVariant v t) := by
  unfold step at h ⊢
  rw [boundary_withVariant, afterChoice_withVariant]
  cases hb : s.boundary with
  | ended => simp [hb] at h
  | reset =>
    simp only [hb] at h ⊢
    exact congrArg outcomeOf (resetEntry_withVariant v s (outcomeOf_eq_next h))
  | interrupt src =>
    simp only [hb] at h ⊢
    exact congrArg outcomeOf (exceptionEntry_withVariant v s.afterChoice (outcomeOf_eq_next h))
  | instruction =>
    simp only [hb, runInstruction, fetch_withVariant] at h ⊢
    cases hf : fetch s.afterChoice with
    | error r => simp [hf] at h
    | ok i =>
      simp only [hf] at h ⊢
      exact exec_withVariant v s.afterChoice h

end

end Machine

/-! The obligations. -/

/-- Settles O35: with its flags replaced the form is admitted as before and leaves the same state but for the flags, which
each form computes without the old N, Z and V. -/
theorem flagsAreNoInputOfAnyInstructionButSwi : Obligations.FlagsAreNoInputOfAnyInstructionButSwi := by
  unfold Obligations.FlagsAreNoInputOfAnyInstructionButSwi
  intro i s t g hi h
  have hf : i.form ≠ .inh .swi := fun e => hi (form_eq_swi_iff.1 e)
  obtain ⟨hadm, rfl⟩ := exec_eq_next_iff.1 h
  have hexec : exec i (s.disguise g s.cfg.variant) = .next { completed i.form s with ccr := flagsAfter i.form s g } := by
    refine exec_eq_next_iff.2 ⟨(admitted_disguise g _ s hf).2 hadm, ?_⟩
    rw [completed_disguise _ _ _ hf]
    obtain ⟨-, hcfg, -, -⟩ := sameOutside_completed i.form s
    exact (disguise_of_variant (congrArg Params.variant hcfg)).symm
  refine ⟨flagsAfter i.form s g, hexec, ?_⟩
  rw [completed_ccr]
  exact flagsAfter_agree hf s g s.ccr

theorem loadStrings_length (m : MemOperand) : (loadStrings .hcs12 m).length = (loadStrings .m68hc12 m).length := by
  cases m <;> rfl

/-- R137: of the stores' strings those of the indirect forms alone differ in length. -/
theorem storeStrings_length_ne_iff (m : MemOperand) :
    (storeStrings .hcs12 m).length ≠ (storeStrings .m68hc12 m).length ↔
      (∃ base, m = .indD base) ∨ (∃ base off, m = .ind16 base off) := by
  cases m <;> simp [storeStrings]

theorem cycleCount_ne_iff (f : Form) :
    cycleCount .hcs12 f.toInstr ≠ cycleCount .m68hc12 f.toInstr ↔
      (∃ base, f = .mem .staa (.indD base) ∨ f = .mem .stab (.indD base)) ∨
      (∃ base off, f = .mem .staa (.ind16 base off) ∨ f = .mem .stab (.ind16 base off)) := by
  cases f with
  | inh op => cases op <;> simp [cycleCount, accessDetail]
  | imm op ii => cases op <;> simp [cycleCount, accessDetail]
  | mem op m =>
    cases op with
    | ldaa => simp [cycleCount, accessDetail_ldaa, loadStrings_length]
    | adda => simp [cycleCount, accessDetail_adda, loadStrings_length]
    | staa => simpa [cycleCount, accessDetail_staa] using storeStrings_length_ne_iff m
    | stab => simpa [cycleCount, accessDetail_stab] using storeStrings_length_ne_iff m

/-- Settles O52: a step with the other variant is followed operation by operation; of the rows of R137 the indirect stores
alone differ in length. -/
theorem variantChangesTimingAlone : Obligations.VariantChangesTimingAlone := by
  unfold Obligations.VariantChangesTimingAlone
  refine ⟨fun s t v h => step_withVariant v s h, fun i => ?_⟩
  have hi := cycleCount_ne_iff i.form
  simp only [← toInstr_inj, Instr.toInstr_form] at hi
  exact hi

end Sys2Proof
end

section
/-! PROOFS. Refusals: the reason that an access check gives for a forbidden byte, and the instructions that report it. -/

namespace Sys2Proof

open Machine Statements

/-! The access checks. -/

theorem readRefusal_of_forbidden {s : State} {a : Word} {r : Refusal} (h : ReadForbidden s a r) :
    readRefusal s a = some r := by
  rcases h with ⟨hk, rfl⟩ | ⟨hk, rfl⟩ <;> rw [readRefusal, hk]

theorem writeRefusal_of_forbidden {s : State} {a : Word} {r : Refusal} (h : WriteForbidden s a r) :
    writeRefusal s a = some r := by
  rcases h with (⟨hk, rfl⟩ | ⟨hk, rfl⟩) | ⟨hk, rfl⟩ | ⟨hk, hc, rfl⟩
  · rw [writeRefusal, hk]
  · rw [writeRefusal, hk]
  · rw [writeRefusal, hk]
  · exact writeRefusal_of_inCode hk hc

theorem readWordRefusal_of_forbidden {s : State} {a : Word} {r : Refusal} (h : WordReadForbidden s a r) :
    readWordRefusal s a = some r := by
  rcases h with h | ⟨hlow, h⟩
  · rw [readWordRefusal, readRefusal_of_forbidden h]
  · rw [readWordRefusal, readRefusal_eq_none_iff.2 hlow]
    exact readRefusal_of_forbidden h

/-- The first byte that may not be read is the one reported. -/
theorem fetchRefusal_of_forbidden {s : State} {a : Word} {r : Refusal} {k n : Nat} (hk : k < n)
    (hbefore : ∀ j, j < k → s.Readable (a + BitVec.ofNat 16 j)) (h : ReadForbidden s (a + BitVec.ofNat 16 k) r) :
    fetchRefusal s a n = some r := by
  induction n with
  | zero => exact absurd hk (Nat.not_lt_zero k)
  | succ n ih =>
    rw [fetchRefusal]
    rcases Nat.lt_succ_iff_lt_or_eq.1 hk with hlt | rfl
    · rw [ih hlt]
    · rw [fetchRefusal_eq_none_iff.2 hbefore]
      exact readRefusal_of_forbidden h

/-! The instructions. -/

theorem loadA_of_loadRefusal {m : MemOperand} {s : State} {r : Refusal} (h : loadRefusal m s = some r) :
    loadA m s = .refused r := by
  rw [loadA, loadOperand, h]

theorem addA_of_loadRefusal {m : MemOperand} {s : State} {r : Refusal} (h : loadRefusal m s = some r) :
    addA m s = .refused r := by
  rw [addA, loadOperand, h]

theorem exec_loads_of_loadRefusal {m : MemOperand} {s : State} {r : Refusal} (h : loadRefusal m s = some r) :
    exec (.ldaa m) s = .refused r ∧ exec (.adda m) s = .refused r := by
  rw [exec_toInstr, exec_toInstr]
  exact ⟨loadA_of_loadRefusal h, addA_of_loadRefusal h⟩

theorem exec_stores_of_storeRefusal {m : MemOperand} {s : State} {r : Refusal} (h : storeRefusal m s = some r) :
    exec (.staa m) s = .refused r ∧ exec (.stab m) s = .refused r := by
  rw [exec_toInstr, exec_toInstr]
  exact ⟨storeByte_of_storeRefusal h s.a, storeByte_of_storeRefusal h s.b⟩

/-- Once its pointer may be read, a load is refused for its operand byte alone. -/
theorem loadRefusal_of_pointerReadable {m : MemOperand} {s : State} (h : s.PointerReadable m) :
    loadRefusal m s = readRefusal s (effectiveAddress m (preModify m s)) := by
  rw [loadRefusal, pointerRefusal_eq_none_iff.2 h]

/-- An operand byte that may not even be read is refused to loads, adds and stores alike. -/
theorem exec_of_readForbidden {m : MemOperand} {s : State} {r : Refusal} (hp : s.PointerReadable m)
    (h : ReadForbidden s (effectiveAddress m (preModify m s)) r) :
    exec (.ldaa m) s = .refused r ∧ exec (.adda m) s = .refused r ∧
    exec (.staa m) s = .refused r ∧ exec (.stab m) s = .refused r := by
  obtain ⟨hldaa, hadda⟩ :=
    exec_loads_of_loadRefusal ((loadRefusal_of_pointerReadable hp).trans (readRefusal_of_forbidden h))
  obtain ⟨hstaa, hstab⟩ :=
    exec_stores_of_storeRefusal ((storeRefusal_of_pointerReadable hp).trans (writeRefusal_of_forbidden (.inl h)))
  exact ⟨hldaa, hadda, hstaa, hstab⟩

theorem exec_stores_of_writeForbidden {m : MemOperand} {s : State} {r : Refusal} (hp : s.PointerReadable m)
    (h : WriteForbidden s (effectiveAddress m (preModify m s)) r) :
    exec (.staa m) s = .refused r ∧ exec (.stab m) s = .refused r :=
  exec_stores_of_storeRefusal ((storeRefusal_of_pointerReadable hp).trans (writeRefusal_of_forbidden h))

/-- Settles O37: each kind of address is one of the ways in which a read or a write is forbidden. -/
theorem operandAccessesTheMapForbidsAreRefused : Obligations.OperandAccessesTheMapForbidsAreRefused := by
  unfold Obligations.OperandAccessesTheMapForbidsAreRefused
  exact fun m s hp => ⟨fun hk => exec_of_readForbidden hp (.inl ⟨hk, rfl⟩),
    fun hk => exec_of_readForbidden hp (.inr ⟨hk, rfl⟩),
    fun hk => exec_stores_of_writeForbidden hp (.inr (.inl ⟨hk, rfl⟩)),
    fun hk hc => exec_stores_of_writeForbidden hp (.inr (.inr ⟨hk, hc, rfl⟩))⟩

/-- The pointer is looked up after the index register is stepped, which leaves the map alone. -/
theorem pointerRefusal_of_forbidden {m : MemOperand} {s : State} {p : Word} {r : Refusal}
    (hp : pointerAddress m (preModify m s) = some p) (h : WordReadForbidden s p r) :
    pointerRefusal m (preModify m s) = some r := by
  have hcfg : readWordRefusal (preModify m s) p = readWordRefusal s p := by
    simp only [readWordRefusal, readRefusal_eq_of_cfg (preModify_cfg s m)]
  rw [pointerRefusal, hp]
  exact hcfg.trans (readWordRefusal_of_forbidden h)

/-- Settles O54: loads and stores both ask for the pointer first. -/
theorem pointersTheMapForbidsAreRefused : Obligations.PointersTheMapForbidsAreRefused := by
  unfold Obligations.PointersTheMapForbidsAreRefused
  intro m s p r hp h
  have hpointer := pointerRefusal_of_forbidden hp h
  obtain ⟨hldaa, hadda⟩ := exec_loads_of_loadRefusal (m := m) (s := s) (r := r) (by rw [loadRefusal, hpointer])
  obtain ⟨hstaa, hstab⟩ := exec_stores_of_storeRefusal (m := m) (s := s) (r := r) (by rw [storeRefusal, hpointer])
  exact ⟨hldaa, hadda, hstaa, hstab⟩

end Sys2Proof
end

section
/-! PROOFS. The boundary between two instructions and the fetch. -/

namespace Sys2Proof

open Machine Statements

/-! The fetch. -/

theorem fetch_of_readRefusal {s : State} {r : Refusal} (h : readRefusal s s.pc = some r) : fetch s = .error r := by
  rw [fetch, h]

theorem fetch_of_fetchRefusal {s : State} {i : Instr} {r : Refusal} (h0 : s.Readable s.pc)
    (hd : decode4 s.cfg.xbDecode (s.peek s.pc) (s.peek (s.pc + 1)) (s.peek (s.pc + 2)) (s.peek (s.pc + 3)) = some i)
    (hr : fetchRefusal s s.pc i.length = some r) : fetch s = .error r := by
  simp only [fetch, readRefusal_eq_none_iff.2 h0, hd, hr]

theorem fetch_of_decodeForm_eq_none {s : State} (h0 : s.Readable s.pc)
    (hd : decodeForm s.cfg.xbDecode (s.peek s.pc) (s.peek (s.pc + 1)) (s.peek (s.pc + 2)) (s.peek (s.pc + 3)) = none) :
    fetch s = .error (.opcodeNotInSource (s.peek s.pc)) := by
  simp only [fetch, readRefusal_eq_none_iff.2 h0, decode4, hd, Option.map_none]

theorem decode4_of_decode_bytesAtPc {s : State} {i : Instr} {rest : List Byte}
    (h : decode s.cfg.xbDecode s.bytesAtPc = .instruction i rest) :
    decode4 s.cfg.xbDecode (s.peek s.pc) (s.peek (s.pc + 1)) (s.peek (s.pc + 2)) (s.peek (s.pc + 3)) = some i :=
  decode4_eq_some_iff.2 (decode_eq_instruction_iff.1 h).1

theorem readable_pc_of_fetchable {s : State} {n : Nat} (h : s.Fetchable n) (hn : 1 ≤ n) : s.Readable s.pc := by
  have h0 := h 0 hn
  rwa [BitVec.add_zero] at h0

theorem step_of_decode4 {s : State} {i : Instr} (hs : s.Undisturbed)
    (hd : decode4 s.cfg.xbDecode (s.peek s.pc) (s.peek (s.pc + 1)) (s.peek (s.pc + 2)) (s.peek (s.pc + 3)) = some i)
    (hf : s.Fetchable i.length) : step s = exec i s := by
  rw [hs.step_eq, runInstruction, fetch_of_decode4 hd (readable_pc_of_fetchable hf (Form.one_le_length i.form)) hf]

theorem step_of_fetch_error {s : State} {r : Refusal} (hs : s.Undisturbed) (h : fetch s = .error r) :
    step s = .refused r := by
  rw [hs.step_eq, runInstruction, h]

/-- Settles O6: the four bytes at pc are the ones that the fetch decodes. -/
theorem stepExecutesTheDecodedInstruction : Obligations.StepExecutesTheDecodedInstruction := by
  unfold Obligations.StepExecutesTheDecodedInstruction
  exact fun s i rest hs hd hf => step_of_decode4 hs (decode4_of_decode_bytesAtPc hd) hf

/-- Settles O7: the bytes given and those at pc agree inside the instruction, and the form read depends on no other. -/
theorem fetchReadsOnlyTheInstructionsBytes : Obligations.FetchReadsOnlyTheInstructionsBytes := by
  unfold Obligations.FetchReadsOnlyTheInstructionsBytes
  intro s bytes i hs hd hf hbytes
  obtain ⟨hform, hle, hrest⟩ := decode_eq_instruction_iff.1 hd
  have hlen : i.length = bytes.length := Nat.le_antisymm hle (List.drop_eq_nil_iff.1 hrest.symm)
  rw [← hlen] at hf
  have hpeek : ∀ k, k < i.length → s.peek (s.pc + BitVec.ofNat 16 k) = bytes.getD k 0 := by
    intro k hk
    have hget : bytes[k]? = some (bytes.getD k 0) := by simp [hlen ▸ hk]
    exact hbytes k _ hget
  have h0 : s.peek s.pc = bytes.getD 0 0 := by
    have h0 := hpeek 0 (Form.one_le_length i.form)
    rwa [BitVec.add_zero] at h0
  refine step_of_decode4 hs (decode4_eq_some_iff.2 ?_) hf
  rw [h0]
  exact decodeForm_of_agree hform (hpeek 1) (hpeek 2) (hpeek 3)

/-- Settles O8: no form is read, whatever the three bytes after byte 0 are. -/
theorem unlistedOpcodeByteIsRefused : Obligations.UnlistedOpcodeByteIsRefused := by
  unfold Obligations.UnlistedOpcodeByteIsRefused
  exact fun s hs h0 hd => step_of_fetch_error hs (fetch_of_decodeForm_eq_none h0 (hd _ _ _))

/-- Settles O55: byte 0 is asked for before it is decoded, the bytes after it once their number is known. -/
theorem fetchesTheMapForbidsAreRefused : Obligations.FetchesTheMapForbidsAreRefused := by
  unfold Obligations.FetchesTheMapForbidsAreRefused
  intro s r hs
  have byteZero : ReadForbidden s s.pc r → step s = .refused r := fun h =>
    step_of_fetch_error hs (fetch_of_readRefusal (readRefusal_of_forbidden h))
  refine ⟨byteZero, fun i rest k hd hk hbefore h => ?_⟩
  rcases Nat.eq_zero_or_pos k with rfl | hpos
  · rw [BitVec.add_zero] at h
    exact byteZero h
  · have h0 := readable_pc_of_fetchable (n := k) hbefore hpos
    exact step_of_fetch_error hs
      (fetch_of_fetchRefusal h0 (decode4_of_decode_bytesAtPc hd) (fetchRefusal_of_forbidden hk hbefore h))

/-! The boundary. -/

/-- Settles O9: the end is asked for first. -/
theorem runEndsAtEndAddr : Obligations.RunEndsAtEndAddr := by
  unfold Obligations.RunEndsAtEndAddr
  intro s h
  rw [step, State.boundary, if_pos h]

theorem step_of_resetRequested {s : State} (hend : s.cfg.endAddr ≠ some s.pc) (hreset : s.resetRequested = true) :
    step s = outcomeOf (resetEntry s) := by
  rw [step, State.boundary, if_neg hend, if_pos hreset]

theorem step_of_interrupt {s : State} {src : IrqSource} (h : s.boundary = .interrupt src) :
    step s = outcomeOf (interruptEntry src s.afterChoice) := by
  rw [step, h]

/-- Settles O57: the reset asks for its vector and for nothing else. -/
theorem resetVectorTheMapForbidsIsRefused : Obligations.ResetVectorTheMapForbidsIsRefused := by
  unfold Obligations.ResetVectorTheMapForbidsIsRefused
  intro s r hend hreset h
  rw [step_of_resetRequested hend hreset, resetEntry, readWordRefusal_of_forbidden h]
  rfl

theorem resetEntry_of_readable {s : State} (h : s.Readable s.cfg.resetVector) (h' : s.Readable (s.cfg.resetVector + 1)) :
    ∃ t, resetEntry s = .ok t := by
  rw [resetEntry, readWordRefusal_eq_none_iff.2 ⟨h, h'⟩]
  exact ⟨_, rfl⟩

/-- Settles O45: a reset overwrites SP, so it does the same whatever SP is. -/
theorem resetVectorsAndStacksNothing : Obligations.ResetVectorsAndStacksNothing := by
  unfold Obligations.ResetVectorsAndStacksNothing
  intro s sp hend hreset h h'
  obtain ⟨t, ht⟩ := resetEntry_of_readable h h'
  have hsp : resetEntry { s with sp := sp } = .ok t := ht
  obtain ⟨-, -, hpc, hccr, hmem, hcfg, hirq, hanswered⟩ := resetEntry_ok ht
  refine ⟨t, ?_, ?_, hpc, ?_, ?_, ?_, hmem, hirq, hcfg, hanswered⟩
  · rw [step_of_resetRequested hend hreset, ht]
    rfl
  · rw [step_of_resetRequested (s := { s with sp := sp }) hend hreset, hsp]
    rfl
  all_goals rw [hccr]; rfl

/-- Settles O46: every clause is a field of `State.reset` as it is written. -/
theorem resetStateIsTheSpecs : Obligations.ResetStateIsTheSpecs := by
  unfold Obligations.ResetStateIsTheSpecs
  exact ⟨rfl, rfl, rfl, rfl, rfl, rfl, rfl, rfl, rfl, rfl, rfl⟩

theorem mem_enabledSources_iff {s : State} {src : IrqSource} :
    src ∈ s.enabledSources ↔ src ∈ s.irq ∧ src.requested = true ∧ (src.maskable = false ∨ s.ccr.i = false) := by
  simp [State.enabledSources, enabled]

/-- Settles O42: such a state is undisturbed, since no source is enabled. -/
theorem maskedRequestsTakeNothing : Obligations.MaskedRequestsTakeNothing := by
  unfold Obligations.MaskedRequestsTakeNothing
  intro s hend hreset hi hmaskable
  have hnone : s.enabledSources = [] := by
    refine List.eq_nil_iff_forall_not_mem.2 fun src hsrc => ?_
    obtain ⟨hirq, -, hclear | hclear⟩ := mem_enabledSources_iff.1 hsrc
    · rw [hmaskable src hirq] at hclear
      cases hclear
    · rw [hi] at hclear
      cases hclear
  exact State.Undisturbed.step_eq ⟨hend, hreset, hnone⟩

/-- With neither an end nor a reset the boundary is the instruction's, or that of an enabled source. -/
theorem boundary_cases {s : State} (hend : s.cfg.endAddr ≠ some s.pc) (hreset : s.resetRequested = false) :
    s.boundary = .instruction ∨ ∃ src ∈ s.enabledSources, s.boundary = .interrupt src := by
  have hno : ¬ s.resetRequested = true := by simp [hreset]
  rw [State.boundary, if_neg hend, if_neg hno]
  split
  · exact .inl rfl
  · cases hsrc : s.chosenSource with
    | none => exact .inl rfl
    | some src => exact .inr ⟨src, List.mem_of_getElem? hsrc, rfl⟩

/-- Settles O43: what is taken is chosen from the enabled sources. -/
theorem onlyEnabledSourcesAreTaken : Obligations.OnlyEnabledSourcesAreTaken := by
  unfold Obligations.OnlyEnabledSourcesAreTaken
  intro s hend hreset
  rcases boundary_cases hend hreset with hb | ⟨src, hsrc, hb⟩
  · left
    rw [step, hb]
  · obtain ⟨hirq, hrequested, hmask⟩ := mem_enabledSources_iff.1 hsrc
    exact .inr ⟨src, hirq, hrequested, hmask, step_of_interrupt hb⟩

end Sys2Proof
end

section
/-! PROOFS. Bytes, words and the CCR byte: place values. -/

namespace Sys2Proof

open Machine Statements

theorem Word.toNat_ofBytes (hi lo : Byte) : (Word.ofBytes hi lo).toNat = 256 * hi.toNat + lo.toNat := by
  rw [Word.ofBytes, BitVec.toNat_append, ← Nat.shiftLeft_add_eq_or_of_lt lo.isLt, Nat.shiftLeft_eq]
  omega

/-- Settles O36: two stores at distinct addresses, the high byte first. -/
theorem wordsAreStoredHighByteFirst : Obligations.WordsAreStoredHighByteFirst := by
  unfold Obligations.WordsAreStoredHighByteFirst
  intro s a v hs
  have hne : a ≠ a + 1 := by bv_omega
  have hhigh : (s.pokeWord a v).peek a = v.hi := by
    rw [State.pokeWord, State.peek_poke_other _ _ hne, State.peek_poke_same s hs]
  have hlow : (s.pokeWord a v).peek (a + 1) = v.lo := State.peek_poke_same _ (State.poke_wf s hs a v.hi) _ _
  refine ⟨hhigh, hlow, ?_, fun k hk hk' => ?_⟩
  · rw [State.peekWord_eq, hhigh, hlow, Word.ofBytes_hi_lo]
  · rw [State.pokeWord, State.peek_poke_other _ _ hk', State.peek_poke_other _ _ hk]

/-- The byte of a flag followed by flags already read as a number. -/
theorem toNat_append_ofBool {w : Nat} (v : BitVec w) (b : Bool) :
    (v ++ BitVec.ofBool b).toNat = 2 * v.toNat + b.toNat := by
  rw [BitVec.toNat_append, BitVec.toNat_ofBool, ← Nat.shiftLeft_add_eq_or_of_lt (by cases b <;> decide), Nat.shiftLeft_eq]
  omega

theorem getLsbD_append_ofBool_zero {w : Nat} (v : BitVec w) (b : Bool) : (v ++ BitVec.ofBool b).getLsbD 0 = b := by
  rw [BitVec.getLsbD_append, if_pos Nat.one_pos]
  cases b <;> rfl

theorem getLsbD_append_ofBool_succ {w : Nat} (v : BitVec w) (b : Bool) (k : Nat) :
    (v ++ BitVec.ofBool b).getLsbD (k + 1) = v.getLsbD k := by
  rw [BitVec.getLsbD_append, if_neg (by omega), Nat.add_sub_cancel]

theorem ofByte_toByte (f : Ccr) : Ccr.ofByte f.toByte = f := by
  have hs : (BitVec.ofBool f.s).getLsbD 0 = f.s := by cases f.s <;> rfl
  simp only [Ccr.ofByte, Ccr.toByte, getLsbD_append_ofBool_zero, getLsbD_append_ofBool_succ, hs]

/-- Settles O34: each flag after the first doubles the number read so far. -/
theorem ccrByteHasTheFlagsInPrintedOrder : Obligations.CcrByteHasTheFlagsInPrintedOrder := by
  unfold Obligations.CcrByteHasTheFlagsInPrintedOrder
  refine fun f => ⟨?_, ofByte_toByte f⟩
  simp only [Ccr.toByte, toNat_append_ofBool, BitVec.toNat_ofBool]
  omega

end Sys2Proof
end

section
/-! PROOFS. Exception entries: where they are refused, and what stands in the frame afterwards. -/

namespace Sys2Proof

open Machine Statements

/-! The frame as offsets below SP. -/

/-- The numbers from `n` down to 1. -/
def countdown : Nat → List Nat
  | 0 => []
  | n + 1 => (n + 1) :: countdown n

theorem mem_countdown_iff {n k : Nat} : k ∈ countdown n ↔ 1 ≤ k ∧ k ≤ n := by
  induction n with
  | zero =>
    simp only [countdown, List.not_mem_nil, false_iff]
    omega
  | succ n ih =>
    simp only [countdown, List.mem_cons, ih]
    omega

/-- A search down from `n` stops at `k` where it finds nothing before. -/
theorem findSome?_countdown {α : Type} {g : Nat → Option α} {r : α} {n k : Nat} (hpos : 1 ≤ k) (hk : k ≤ n)
    (hbefore : ∀ j, k < j → j ≤ n → g j = none) (h : g k = some r) : (countdown n).findSome? g = some r := by
  induction n with
  | zero => omega
  | succ n ih =>
    rw [countdown, List.findSome?_cons]
    rcases Nat.lt_or_eq_of_le hk with hlt | rfl
    · rw [hbefore (n + 1) hlt (Nat.le_refl _)]
      exact ih (Nat.le_of_lt_succ hlt) fun j hj hjn => hbefore j hj (Nat.le_succ_of_le hjn)
    · rw [h]

theorem frameAddresses_eq_map (sp : Word) : frameAddresses sp = (countdown 9).map fun k => sp - BitVec.ofNat 16 k := rfl

theorem mem_frameAddresses_iff_exists {sp a : Word} :
    a ∈ frameAddresses sp ↔ ∃ k, (1 ≤ k ∧ k ≤ 9) ∧ sp - BitVec.ofNat 16 k = a := by
  simp only [frameAddresses_eq_map, List.mem_map, mem_countdown_iff]

/-- A frame below another shares no byte with it. -/
theorem not_mem_frameAddresses_sub_nine {sp a : Word} (h : a ∈ frameAddresses sp) : a ∉ frameAddresses (sp - 9) := by
  intro h'
  obtain ⟨k, ⟨hk1, hk9⟩, rfl⟩ := mem_frameAddresses_iff_exists.1 h
  obtain ⟨j, ⟨hj1, hj9⟩, he⟩ := mem_frameAddresses_iff_exists.1 h'
  bv_omega

/-! Where an entry is refused. -/

theorem entryRefusal_of_frameCovers {s : State} {vec a : Word} (ha : a ∈ frameAddresses s.sp) (h : a = vec ∨ a = vec + 1) :
    entryRefusal vec s = some .frameOverVector := by
  have hcovers : frameCovers s.sp vec = true := by
    rw [frameCovers, List.any_eq_true]
    exact ⟨a, ha, by simpa using h⟩
  rw [entryRefusal, if_pos hcovers]

theorem entryRefusal_of_disjoint {s : State} {vec : Word} (h : vec ∉ frameAddresses s.sp)
    (h' : vec + 1 ∉ frameAddresses s.sp) :
    entryRefusal vec s = ((frameAddresses s.sp).findSome? (writeRefusal s)).or (readWordRefusal s vec) := by
  simp only [entryRefusal, frameCovers_eq_false_iff.2 ⟨h, h'⟩, Bool.false_eq_true, if_false]
  cases (frameAddresses s.sp).findSome? (writeRefusal s) <;> rfl

/-- The lowest byte of the frame that may not be written is the first one asked for. -/
theorem findSome?_writeRefusal_frameAddresses {s : State} {r : Refusal} {k : Nat} (hpos : 1 ≤ k) (hk : k ≤ 9)
    (hbefore : ∀ j : Nat, k < j → j ≤ 9 → s.Writable (s.sp - BitVec.ofNat 16 j))
    (h : WriteForbidden s (s.sp - BitVec.ofNat 16 k) r) :
    (frameAddresses s.sp).findSome? (writeRefusal s) = some r := by
  rw [frameAddresses_eq_map, List.findSome?_map]
  exact findSome?_countdown hpos hk (fun j hj hj9 => writeRefusal_eq_none_iff.2 (hbefore j hj hj9))
    (writeRefusal_of_forbidden h)

theorem afterChoice_eq_draws (s : State) : ∃ n, s.afterChoice = { s with draws := n } := by
  unfold State.afterChoice
  split
  · exact ⟨s.draws, rfl⟩
  · exact ⟨s.draws + 1, rfl⟩

/-- SWI and a taken interrupt ask what the shared sequence asks. -/
theorem entryRefused_of_entryRefusal {vec : Word} {s : State} {r : Refusal} (h : entryRefusal vec s = some r) :
    EntryRefused vec s r := by
  refine ⟨exceptionEntry_of_refusal h, ?swi, ?interrupt⟩
  case swi =>
    rintro rfl
    exact congrArg outcomeOf (exceptionEntry_of_refusal h (s.pc + 1))
  case interrupt =>
    rintro src hb rfl
    obtain ⟨n, hn⟩ := afterChoice_eq_draws s
    have hentry : entryRefusal src.vector s.afterChoice = some r := by
      rw [hn]
      exact h
    rw [step_of_interrupt hb]
    exact congrArg outcomeOf (exceptionEntry_of_refusal hentry _)

/-- Settles O56: the checks of the entry in their order, the frame from its lowest byte up. -/
theorem entriesTheMapForbidsAreRefused : Obligations.EntriesTheMapForbidsAreRefused := by
  unfold Obligations.EntriesTheMapForbidsAreRefused
  intro s vec r
  refine ⟨fun a ha hvec => ?covers, fun hvec hvec' => ⟨fun k hpos hk hbefore h => ?frame, fun hframe h => ?vector⟩⟩
  case covers => exact entryRefused_of_entryRefusal (entryRefusal_of_frameCovers ha hvec)
  case frame =>
    apply entryRefused_of_entryRefusal
    rw [entryRefusal_of_disjoint hvec hvec', findSome?_writeRefusal_frameAddresses hpos hk hbefore h,
      Option.some_or]
  case vector =>
    have hnone : (frameAddresses s.sp).findSome? (writeRefusal s) = none :=
      List.findSome?_eq_none_iff.2 fun a ha => writeRefusal_eq_none_iff.2 (hframe a ha)
    apply entryRefused_of_entryRefusal
    rw [entryRefusal_of_disjoint hvec hvec', hnone, Option.none_or]
    exact readWordRefusal_of_forbidden h

/-- Settles O38: a byte of the program may not be written, so no entry over it is admitted. -/
theorem swiOverItsVectorOrTheProgramIsRefused : Obligations.SwiOverItsVectorOrTheProgramIsRefused := by
  unfold Obligations.SwiOverItsVectorOrTheProgramIsRefused
  intro s k hpos hk
  have hmem : s.sp - BitVec.ofNat 16 k ∈ frameAddresses s.sp := mem_frameAddresses_iff_exists.2 ⟨k, ⟨hpos, hk⟩, rfl⟩
  refine ⟨fun hvec => ?covers, fun hcode => ?program⟩
  case covers =>
    obtain ⟨-, hswi, -⟩ := entryRefused_of_entryRefusal (entryRefusal_of_frameCovers hmem hvec)
    exact hswi rfl
  case program =>
    cases h : entryRefusal s.cfg.swiVector s with
    | some r =>
      obtain ⟨-, hswi, -⟩ := entryRefused_of_entryRefusal h
      exact ⟨r, hswi rfl⟩
    | none =>
      obtain ⟨-, hno⟩ := (entryRefusal_eq_none_iff.1 h).frameWritable _ hmem
      rw [hcode] at hno
      cases hno

/-! Where an entry completes. -/

/-- Settles O39: the trap is the shared sequence, which where admitted leaves `enteredState`. -/
theorem unimplementedOpcodeEntryIsTheSwiSequence : Obligations.UnimplementedOpcodeEntryIsTheSwiSequence := by
  unfold Obligations.UnimplementedOpcodeEntryIsTheSwiSequence
  intro s ret hs henter
  exact ⟨enteredState ret s.cfg.unimplVector s, exceptionEntry_of_canEnter henter ret, entered_enteredState _ _ hs,
    sameOutside_enteredState _ _ s⟩

/-- Settles O44: the choice draws a free value and leaves all that the entry reads. -/
theorem takenInterruptEntersBeforeTheInstruction : Obligations.TakenInterruptEntersBeforeTheInstruction := by
  unfold Obligations.TakenInterruptEntersBeforeTheInstruction
  intro s src hb hs henter
  obtain ⟨n, hn⟩ := afterChoice_eq_draws s
  have henter' : ({ s with draws := n } : State).CanEnter src.vector :=
    ⟨henter.frameWritable, henter.vectorReadable, henter.disjoint⟩
  refine ⟨enteredState s.pc src.vector { s with draws := n }, ?_, ?_, rfl, rfl⟩
  · rw [step_of_interrupt hb, hn]
    exact congrArg outcomeOf (exceptionEntry_of_canEnter henter' s.pc)
  · exact entered_enteredState s.pc src.vector (s := { s with draws := n }) hs

/-! What a handler finds. -/

/-- A form with SP as base reads a byte of the frame at its offset from the last byte stacked. -/
theorem ldaaConst5_sp_enteredState {ret vec : Word} {s : State} (hs : s.Inv) (henter : s.CanEnter vec) {off : Int}
    {a : Word} {v : Byte} (hoff : s.sp - 9 + BitVec.ofInt 16 off = a) (hmem : (a, v) ∈ frameBytes ret s) :
    ∃ u, exec (.ldaaConst5 .sp off) (enteredState ret vec s) = .next u ∧ u.a = v ∧ u.sp = s.sp - 9 := by
  have hea : effectiveAddress (.const5 .sp off) (enteredState ret vec s) = a := hoff
  have hpeek : (enteredState ret vec s).peek a = v := enteredState_peek_frame ret vec s hs hmem
  have hplain : s.Writable a := henter.frameWritable a ((mem_frameAddresses_iff ret s a).2 ⟨_, hmem, rfl⟩)
  have hload : (enteredState ret vec s).CanLoad (.const5 .sp off) := by
    refine ⟨nofun, ?_⟩
    rw [show preModify (.const5 .sp off) (enteredState ret vec s) = enteredState ret vec s from rfl, hea]
    exact .inl hplain.1
  refine ⟨_, exec_eq_next_iff.2 ⟨hload, rfl⟩, ?_, rfl⟩
  rw [← hpeek, ← hea]
  rfl

/-- Settles O40: the nine offsets lead to the nine addresses of the frame. -/
theorem handlerReadsTheFrameThroughSp : Obligations.HandlerReadsTheFrameThroughSp := by
  unfold Obligations.HandlerReadsTheFrameThroughSp
  intro s t hs h off v hmem
  obtain ⟨henter, rfl⟩ := execSwi_next h
  have hread : ∀ a, s.sp - 9 + BitVec.ofInt 16 off = a → (a, v) ∈ frameBytes (s.pc + 1) s → _ := fun _ =>
    ldaaConst5_sp_enteredState (vec := s.cfg.swiVector) hs henter
  simp only [List.mem_cons, Prod.mk.injEq, List.not_mem_nil, or_false] at hmem
  rcases hmem with ⟨rfl, rfl⟩ | ⟨rfl, rfl⟩ | ⟨rfl, rfl⟩ | ⟨rfl, rfl⟩ | ⟨rfl, rfl⟩ | ⟨rfl, rfl⟩ | ⟨rfl, rfl⟩ | ⟨rfl, rfl⟩ |
    ⟨rfl, rfl⟩
  · exact hread (s.sp - 9) (by bv_omega) (by simp [frameBytes])
  · exact hread (s.sp - 8) (by bv_omega) (by simp [frameBytes])
  · exact hread (s.sp - 7) (by bv_omega) (by simp [frameBytes])
  · exact hread (s.sp - 6) (by bv_omega) (by simp [frameBytes])
  · exact hread (s.sp - 5) (by bv_omega) (by simp [frameBytes])
  · exact hread (s.sp - 4) (by bv_omega) (by simp [frameBytes])
  · exact hread (s.sp - 3) (by bv_omega) (by simp [frameBytes])
  · exact hread (s.sp - 2) (by bv_omega) (by simp [frameBytes])
  · exact hread (s.sp - 1) (by bv_omega) (by simp [frameBytes])

/-- A frame stands as long as its bytes do. -/
theorem frameStacked_of_peek_eq {ret : Word} {s t u : State} (h : FrameStacked ret s t)
    (hsame : ∀ a ∈ frameAddresses s.sp, u.peek a = t.peek a) : FrameStacked ret s u := by
  simp only [frameAddresses, List.forall_mem_cons] at hsame
  obtain ⟨h9, h8, h7, h6, h5, h4, h3, h2, h1, -⟩ := hsame
  simpa only [FrameStacked, h9, h8, h7, h6, h5, h4, h3, h2, h1] using h

/-- Settles O41: the second frame lies below the first, whose entry set I and left the vector alone. -/
theorem nestedSwiStacksBelow : Obligations.NestedSwiStacksBelow := by
  unfold Obligations.NestedSwiStacksBelow
  intro s t u hs ht hu
  obtain ⟨henter, rfl⟩ := execSwi_next ht
  obtain ⟨-, rfl⟩ := execSwi_next hu
  obtain ⟨hvec, hvec'⟩ := henter.disjoint
  have hsp : s.sp - 9 - 9 = s.sp - 18 := by bv_omega
  have hfirst := frameStacked_enteredState (s.pc + 1) s.cfg.swiVector hs
  have hsecond := frameStacked_enteredState ((enteredState (s.pc + 1) s.cfg.swiVector s).pc + 1) s.cfg.swiVector
    (enteredState_wf (s.pc + 1) s.cfg.swiVector s hs)
  refine ⟨hsp, frameStacked_of_peek_eq hfirst fun a ha => ?below, hsecond, ?mask, ?vector⟩
  case below => exact enteredState_peek_other _ _ _ (not_mem_frameAddresses_sub_nine ha)
  case mask =>
    obtain ⟨hccr, -⟩ := hsecond
    rw [← hsp]
    exact (congrArg (BitVec.getLsbD · 4) hccr).trans (congrArg Ccr.i (ofByte_toByte _))
  case vector =>
    show s.peekWord _ = State.peekWord (enteredState (s.pc + 1) s.cfg.swiVector s) s.cfg.swiVector
    rw [State.peekWord_eq, State.peekWord_eq, enteredState_peek_other _ _ _ hvec, enteredState_peek_other _ _ _ hvec']

end Sys2Proof
end

section
/-! PROOFS. Effective addresses as numbers, and the auto forms. -/

namespace Sys2Proof

open Machine Statements

/-! Sums modulo 65536. -/

theorem toNat_add_ofInt (w : Word) (off : Int) :
    ((w + BitVec.ofInt 16 off).toNat : Int) = ((w.toNat : Int) + off) % 65536 := by
  rw [BitVec.toNat_add, BitVec.toNat_ofInt]
  omega

theorem toNat_d (s : State) : s.d.toNat = 256 * s.a.toNat + s.b.toNat := Word.toNat_ofBytes s.a s.b

/-- The number a base register stands for, PC being that of the next instruction but for the modulus (R66). -/
def baseNat (s : State) (len : Nat) : Base → Nat
  | .x => s.x.toNat
  | .y => s.y.toNat
  | .sp => s.sp.toNat
  | .pc => s.pc.toNat + len

theorem toNat_baseValue (s : State) (len : Nat) (base : Base) :
    (baseValue s len base).toNat = baseNat s len base % 65536 := by
  cases base with
  | x => exact (Nat.mod_eq_of_lt s.x.isLt).symm
  | y => exact (Nat.mod_eq_of_lt s.y.isLt).symm
  | sp => exact (Nat.mod_eq_of_lt s.sp.isLt).symm
  | pc => simp [baseValue, baseNat]

theorem toNat_baseValue_add (s : State) (len : Nat) (base : Base) (w : Word) :
    (baseValue s len base + w).toNat = (baseNat s len base + w.toNat) % 65536 := by
  rw [BitVec.toNat_add, toNat_baseValue, Nat.mod_add_mod]

theorem toNat_baseValue_add_ofInt (s : State) (len : Nat) (base : Base) (off : Int) :
    ((baseValue s len base + BitVec.ofInt 16 off).toNat : Int) = ((baseNat s len base : Int) + off) % 65536 := by
  rw [toNat_baseValue_add, BitVec.toNat_ofInt]
  omega

theorem toNat_peekWord (s : State) (a : Word) : (s.peekWord a).toNat = 256 * (s.peek a).toNat + (s.peek (a + 1)).toNat := by
  rw [State.peekWord_eq, Word.toNat_ofBytes]

/-- Settles O26: two bytes side by side. -/
theorem directAndExtendedAddresses : Obligations.DirectAndExtendedAddresses := by
  unfold Obligations.DirectAndExtendedAddresses
  exact fun s dd hhll => ⟨Word.toNat_ofBytes s.cfg.directBase dd, rfl⟩

/-- Settles O27: each clause is the sum of a base and an offset. -/
theorem constantOffsetAddresses : Obligations.ConstantOffsetAddresses := by
  unfold Obligations.ConstantOffsetAddresses
  intro s off w
  have five := fun base => toNat_baseValue_add_ofInt s 2 base off
  have nine := fun base => toNat_baseValue_add_ofInt s 3 base off
  have sixteen := fun base => toNat_baseValue_add s 4 base w
  exact ⟨five .x, five .y, five .sp, five .pc, nine .x, nine .y, nine .sp, nine .pc,
    sixteen .x, sixteen .y, sixteen .sp, sixteen .pc⟩

/-- Settles O28: D is A and B side by side, and the sum is that of a base and an offset. -/
theorem accumulatorOffsetAddresses : Obligations.AccumulatorOffsetAddresses := by
  unfold Obligations.AccumulatorOffsetAddresses
  intro s base v
  have hv : v = baseNat s 2 base := by cases base <;> rfl
  have hsum : ∀ acc, (effectiveAddress (.accOff base acc) s).toNat = (v + (accOffset s acc).toNat) % 65536 := by
    intro acc
    rw [hv]
    exact toNat_baseValue_add s 2 base _
  have hbyte : ∀ b : Byte, (b.setWidth 16).toNat = b.toNat := fun b => BitVec.toNat_setWidth_of_le (by decide)
  refine ⟨?_, ?_, ?_⟩
  · rw [hsum, accOffset, hbyte]
  · rw [hsum, accOffset, hbyte]
  · rw [hsum, accOffset, toNat_d]

/-- Settles O29: the number given names the address at which the pointer is read. -/
theorem indirectAddresses : Obligations.IndirectAddresses := by
  unfold Obligations.IndirectAddresses
  intro s base off p q v
  have hv : ∀ len, v len = baseNat s len base := by intro len; cases base <;> rfl
  refine ⟨fun hp => ?_, fun hq => ?_⟩
  · have hpointer : p = baseValue s 2 base + s.d := by
      apply BitVec.eq_of_toNat_eq
      rw [hp, toNat_baseValue_add, hv, toNat_d]
    rw [hpointer]
    exact toNat_peekWord s _
  · have hpointer : q = baseValue s 4 base + off := by
      apply BitVec.eq_of_toNat_eq
      rw [hq, toNat_baseValue_add, hv]
    rw [hpointer]
    exact toNat_peekWord s _

/-! The auto forms. -/

section
variable (r : IndexReg) (pre : Bool) (delta : Int) (s : State)

/-- Before the access and after it the register is stepped once. -/
theorem index_auto :
    (postModify (.auto r pre delta) (preModify (.auto r pre delta) s)).index r = s.index r + BitVec.ofInt 16 delta := by
  cases pre
  · exact State.index_setIndex _ r _
  · exact State.index_setIndex _ r _

theorem effectiveAddress_auto :
    effectiveAddress (.auto r pre delta) (preModify (.auto r pre delta) s) =
      if pre then s.index r + BitVec.ofInt 16 delta else s.index r := by
  cases pre
  · rfl
  · exact State.index_setIndex s r _

theorem index_storedTo_auto (v : Byte) :
    (storedTo (.auto r pre delta) v s).index r = s.index r + BitVec.ofInt 16 delta := by
  cases pre
  · exact (State.index_setIndex _ r _).trans (by rw [index_poke]; rfl)
  · exact (index_poke _ _ v r).trans (State.index_setIndex s r _)

end

theorem exec_toInstr_of_admitted {f : Form} {s : State} (h : Admitted f s) :
    exec f.toInstr s = .next (completed f s) :=
  (exec_toInstr f s).trans (execForm_of_admitted h)

theorem addResult_eq_add (a m : Byte) : addResult a m = a + m := by
  apply BitVec.eq_of_toNat_eq
  simp [addResult]

/-- Settles O30: the register ends stepped once, before the access or after it, and the access is at what it then holds. -/
theorem autoFormsStepTheRegister : Obligations.AutoFormsStepTheRegister := by
  unfold Obligations.AutoFormsStepTheRegister
  intro r pre delta s new hnew ea
  obtain rfl : new = s.index r + BitVec.ofInt 16 delta := by
    apply BitVec.eq_of_toNat_eq
    have := toNat_add_ofInt (s.index r) delta
    omega
  have hea : effectiveAddress (.auto r pre delta) (preModify (.auto r pre delta) s) = ea :=
    effectiveAddress_auto r pre delta s
  have hload : s.Readable ea → s.CanLoad (.auto r pre delta) := fun h => ⟨nofun, hea ▸ h⟩
  have hstore : s.Writable ea → s.CanStore (.auto r pre delta) := fun h => ⟨nofun, hea ▸ h⟩
  refine ⟨fun h => ⟨_, exec_toInstr_of_admitted (f := .mem .ldaa _) (hload h), ?_, ?_⟩,
    fun h => ⟨_, exec_toInstr_of_admitted (f := .mem .adda _) (hload h), ?_, ?_⟩,
    fun hs h => ⟨_, exec_toInstr_of_admitted (f := .mem .staa _) (hstore h), ?_, ?_⟩,
    fun hs h => ⟨_, exec_toInstr_of_admitted (f := .mem .stab _) (hstore h), ?_, ?_⟩⟩
  · simp [completed, loadedA, index_auto]
  · simp [completed, loadedA, hea]
  · simp [completed, addedA, index_auto]
  · simp [completed, addedA, hea, addResult_eq_add]
  · simp [completed, index_storedTo_auto]
  · rw [← hea]
    exact storedTo_peek_same hs s.a
  · simp [completed, index_storedTo_auto]
  · rw [← hea]
    exact storedTo_peek_same hs s.b

end Sys2Proof
end

section
/-! PROOFS. The arithmetic flags against the Boolean formulas of R95 and the true sums of R94, and the shifts as halving. -/

namespace Sys2Proof

open Machine Statements

/-! ADDA. -/

/-- The carry out of a bit, from the bit of the operands and of the sum. -/
theorem carry_succ_eq_formula (a m : Byte) {k : Nat} (hk : k < 8) :
    BitVec.carry (k + 1) a m false =
      ((a.getLsbD k && m.getLsbD k) || (m.getLsbD k && !(a + m).getLsbD k) || (!(a + m).getLsbD k && a.getLsbD k)) := by
  rw [BitVec.carry_succ, BitVec.getLsbD_add hk]
  cases a.getLsbD k <;> cases m.getLsbD k <;> cases BitVec.carry k a m false <;> rfl

theorem addFlags_h (a m : Byte) (f : Ccr) : (addFlags a m f).h = BitVec.carry 4 a m false := rfl

theorem addFlags_c (a m : Byte) (f : Ccr) : (addFlags a m f).c = BitVec.carry 8 a m false := by
  simp [addFlags, BitVec.carry, Nat.mod_eq_of_lt a.isLt, Nat.mod_eq_of_lt m.isLt]

theorem addFlags_v (a m : Byte) (f : Ccr) : (addFlags a m f).v = BitVec.saddOverflow a m := by
  rw [BitVec.saddOverflow_eq, ← addResult_eq_add]
  rfl

theorem sumFormulas_addFlags (a m : Byte) (f : Ccr) : SumFormulas a m (addResult a m) (addFlags a m f) := by
  rw [addResult_eq_add]
  refine ⟨?h, ?v, ?c⟩
  case h => rw [addFlags_h, carry_succ_eq_formula a m (by decide)]
  case c => rw [addFlags_c, carry_succ_eq_formula a m (by decide)]
  case v =>
    rw [addFlags_v, BitVec.saddOverflow_eq]
    simp only [BitVec.msb_eq_getLsbD_last]
    cases a.getLsbD 7 <;> cases m.getLsbD 7 <;> cases (a + m).getLsbD 7 <;> rfl

theorem msb_eq_true_iff_toInt_neg (v : Byte) : v.msb = true ↔ v.toInt < 0 := by
  rw [BitVec.msb_eq_toInt, decide_eq_true_iff]

theorem trueSum_addFlags (a m : Byte) (f : Ccr) : TrueSum a m (addResult a m) (addFlags a m f) := by
  refine ⟨BitVec.toNat_ofNat _ 8, ?c, ?v, msb_eq_true_iff_toInt_neg _⟩
  case c => simp only [addFlags, ge_iff_le, decide_eq_true_iff, Nat.lt_iff_add_one_le]
  case v =>
    rw [addFlags_v, BitVec.saddOverflow, Bool.or_eq_true, decide_eq_true_iff, decide_eq_true_iff]
    omega

/-- What an ADDA leaves in A and the flags, whichever row it is. -/
theorem addA_next_a_ccr {m : MemOperand} {s t : State} (h : exec (.adda m) s = .next t) :
    t.a = addResult s.a (s.peek (effectiveAddress m (preModify m s))) ∧
    t.ccr = addFlags s.a (s.peek (effectiveAddress m (preModify m s))) s.ccr := by
  rw [exec_toInstr] at h
  obtain ⟨-, rfl⟩ := addA_next h
  simp [addedA]

theorem addImmA_next_a_ccr {ii : Byte} {s t : State} (h : exec (.addaImm ii) s = .next t) :
    t.a = addResult s.a ii ∧ t.ccr = addFlags s.a ii s.ccr := by
  obtain ⟨-, rfl⟩ := exec_eq_next_iff.1 h
  exact ⟨rfl, rfl⟩

/-- Settles O31: H and C are the carries out of bits 3 and 7, V the signed overflow, each a formula over bits. -/
theorem additionFlagsAreTheFormulas : Obligations.AdditionFlagsAreTheFormulas := by
  unfold Obligations.AdditionFlagsAreTheFormulas
  refine ⟨fun ii s t h => ?_, fun m s t h => ?_⟩
  · obtain ⟨ha, hccr⟩ := addImmA_next_a_ccr h
    rw [ha, hccr]
    exact sumFormulas_addFlags _ _ _
  · obtain ⟨ha, hccr⟩ := addA_next_a_ccr h
    rw [ha, hccr]
    exact sumFormulas_addFlags _ _ _

/-! INCA and DECB. -/

theorem incFlags_v_iff (a : Byte) (f : Ccr) : (incFlags a f).v = true ↔ 127 < a.toInt + 1 := by
  have hmax : a.toInt < 128 := a.toInt_lt
  rw [incFlags, beq_iff_eq, ← BitVec.toInt_inj]
  show a.toInt = 127 ↔ _
  omega

theorem decFlags_v_iff (b : Byte) (f : Ccr) : (decFlags b f).v = true ↔ b.toInt - 1 < -128 := by
  have hmin : -128 ≤ b.toInt := b.le_toInt
  rw [decFlags, beq_iff_eq, ← BitVec.toInt_inj]
  show b.toInt = -128 ↔ _
  omega

/-- Settles O32: V is the signed overflow of the addition, or marks the one operand whose successor or predecessor leaves
the range. -/
theorem carryAndOverflowReportTheTrueSums : Obligations.CarryAndOverflowReportTheTrueSums := by
  unfold Obligations.CarryAndOverflowReportTheTrueSums
  refine ⟨fun ii s t h => ?imm, fun m s t h => ?mem, fun s t h => ?inc, fun s t h => ?dec⟩
  case imm =>
    obtain ⟨ha, hccr⟩ := addImmA_next_a_ccr h
    rw [ha, hccr]
    exact trueSum_addFlags _ _ _
  case mem =>
    obtain ⟨ha, hccr⟩ := addA_next_a_ccr h
    rw [ha, hccr]
    exact trueSum_addFlags _ _ _
  case inc =>
    obtain ⟨-, rfl⟩ := exec_eq_next_iff.1 h
    exact ⟨BitVec.toNat_add s.a 1, incFlags_v_iff s.a s.ccr, msb_eq_true_iff_toInt_neg _⟩
  case dec =>
    obtain ⟨-, rfl⟩ := exec_eq_next_iff.1 h
    refine ⟨?_, decFlags_v_iff s.b s.ccr, msb_eq_true_iff_toInt_neg _⟩
    exact (congrArg BitVec.toNat (sub_one_eq_ofNat s.b)).trans (by simp)

/-! LSRA and ASRA. -/

theorem getLsbD_zero_iff_toNat (a : Byte) : a.getLsbD 0 = true ↔ a.toNat % 2 = 1 := by
  rw [BitVec.getLsbD, Nat.testBit_zero, decide_eq_true_iff]

theorem getLsbD_zero_iff_toInt (a : Byte) : a.getLsbD 0 = true ↔ a.toInt % 2 = 1 := by
  rw [getLsbD_zero_iff_toNat, BitVec.toInt_eq_msb_cond]
  split <;> omega

theorem lsrResult_eq_ushiftRight (a : Byte) : lsrResult a = a >>> 1 := by
  apply BitVec.eq_of_getLsbD_eq
  intro k hk
  rw [BitVec.getLsbD_ushiftRight, Nat.add_comm]
  rcases Nat.lt_or_eq_of_le (Nat.le_of_lt_succ hk) with hlt | rfl
  · exact lsrResult_getLsbD_of_lt a hlt
  · exact (lsrResult_getLsbD_seven a).trans (a.getLsbD_of_ge 8 (Nat.le_refl 8)).symm

theorem asrResult_eq_sshiftRight (a : Byte) : asrResult a = a.sshiftRight 1 := by
  apply BitVec.eq_of_getLsbD_eq
  intro k hk
  rw [BitVec.getLsbD_sshiftRight, Nat.add_comm, decide_eq_false (Nat.not_le_of_lt hk)]
  rcases Nat.lt_or_eq_of_le (Nat.le_of_lt_succ hk) with hlt | rfl
  · rw [asrResult_getLsbD_of_lt a hlt, if_pos (Nat.succ_lt_succ hlt)]
    rfl
  · rw [asrResult_getLsbD_seven, if_neg (Nat.lt_irrefl 8), BitVec.msb_eq_getLsbD_last]
    rfl

/-- Settles O33: the results are the library's logical and arithmetic shifts by one. -/
theorem shiftsHalveWithTheRemainderInC : Obligations.ShiftsHalveWithTheRemainderInC := by
  unfold Obligations.ShiftsHalveWithTheRemainderInC
  refine ⟨fun s t h => ?lsr, fun s t h => ?asr⟩
  case lsr =>
    obtain rfl := Host.Outcome.next.inj ((execLsra_eq s).symm.trans h)
    refine ⟨?_, getLsbD_zero_iff_toNat s.a, rfl, (Bool.false_xor _).symm⟩
    show (lsrResult s.a).toNat = _
    rw [lsrResult_eq_ushiftRight, BitVec.toNat_ushiftRight, Nat.shiftRight_one]
  case asr =>
    obtain rfl := Host.Outcome.next.inj ((execAsra_eq s).symm.trans h)
    refine ⟨?_, getLsbD_zero_iff_toInt s.a, rfl⟩
    show (asrResult s.a).toInt = _
    rw [asrResult_eq_sshiftRight, BitVec.toInt_sshiftRight]
    exact Int.shiftRight_eq_div_pow _ 1

end Sys2Proof
end
